-- ==== Sys2Proof/Word.lean ====
section
/-! DEFINITION. The word types of the core: the 8-bit cell, the 5-bit micro-operation word, and the
group of five (K = 5) that line-buffer columns, window rows and kernel rows are made of. -/

namespace Sys2Proof

/-- A `u8`: one gray value, one colour channel, one line-buffer or window cell (R12, R83). -/
abbrev Byte := BitVec 8

/-- A micro-operation word `op[4:0]` (R86). -/
abbrev OpWord := BitVec 5

/-- Five like things in order, indices 0 to K−1 = 4 (R5). A line-buffer column is five depths (R24),
the window is five rows of five cells (R26), a kernel is five rows of five integers (R8). -/
structure Five (α : Type) where
  a0 : α
  a1 : α
  a2 : α
  a3 : α
  a4 : α
  deriving DecidableEq, Repr, Inhabited

/-- The `i`-th of five. The index type leaves no index outside `[0, 5)` (R55). -/
def Five.get {α : Type} (x : Five α) (i : Fin 5) : α :=
  match i with
  | 0 => x.a0
  | 1 => x.a1
  | 2 => x.a2
  | 3 => x.a3
  | 4 => x.a4

/-- The five values of a function of the index. -/
def Five.ofFn {α : Type} (f : Fin 5 → α) : Five α :=
  ⟨f 0, f 1, f 2, f 3, f 4⟩

/-- Entry by entry. -/
def Five.zipWith {α β γ : Type} (f : α → β → γ) (x : Five α) (y : Five β) : Five γ :=
  ⟨f x.a0 y.a0, f x.a1 y.a1, f x.a2 y.a2, f x.a3 y.a3, f x.a4 y.a4⟩

/-- Entry by entry, one source. -/
def Five.map {α β : Type} (f : α → β) (x : Five α) : Five β :=
  ⟨f x.a0, f x.a1, f x.a2, f x.a3, f x.a4⟩

/-- The sum of five integers. -/
def Five.sum (x : Five Int) : Int :=
  x.a0 + x.a1 + x.a2 + x.a3 + x.a4

/-- The sum of five naturals. -/
def Five.natSum (x : Five Nat) : Nat :=
  x.a0 + x.a1 + x.a2 + x.a3 + x.a4

/-- One column or row of gray cells. -/
abbrev Cells := Five Byte

/-- The line buffer, column by column: `LB[c][d]` is entry `d` of column `c` (R24). -/
abbrev LineBuffer := List Cells

/-- The window, row by row: `Win[r][k]` is entry `k` of row `r` (R26). -/
abbrev Window := Five Cells

/-- A 5×5 matrix of signed integers, row by row: `KX[i][j]` is entry `j` of row `i` (R8, R161). -/
abbrev Kernel := Five (Five Int)

end Sys2Proof
end

