-- ==== Sys2Proof/Config.lean ====
section
/-! DEFINITION. What the build fixes (R5, R6, R8, R10, R20, R30, R31) and the free values of the spec
(R27, R28). The configuration is no state of the hardware (R20); the machine carries it as a field no
operation writes, so that every statement holds for every configuration (log entries 1 and 2). -/

namespace Sys2Proof

/-- The build-time parameters of one engine instance. -/
structure Config where
  /-- Frame width `W` (R6). OPEN. -/
  w : Nat
  /-- Frame height `H` (R6). OPEN. -/
  h : Nat
  /-- Horizontal-gradient kernel `KX` (R8, R161). OPEN. -/
  kx : Kernel
  /-- Vertical-gradient kernel `KY` (R8, R161). OPEN. -/
  ky : Kernel
  /-- Accumulator width `ACC_W` in bits, signed (R10). OPEN. -/
  accW : Nat
  /-- Output-queue capacity; `none` is the spec's unbounded queue (R32), `some n` a bounded
  realisation (R253, U16). -/
  outCap : Option Nat
  /-- Status-queue capacity, likewise (R253). -/
  statusCap : Option Nat
  /-- The MODEL's own: which source of draws this engine takes its free values from. No rule relates the
  draws of different engines (R27, R28, R64, R236); two engines with sources of their own draw free of one
  another. DESIGN CHOICE (log entry 25). -/
  source : Nat
  deriving DecidableEq, Repr, Inhabited

/-- The kernel edge length `K` (R5); `Five` has this many entries. -/
def Config.K : Nat := 5

/-- The border offset `OFFSET = ⌊K/2⌋ = 2` (R5). -/
def Config.OFFSET : Nat := Config.K / 2

/-- The configuration this machine was built with. DESIGN CHOICE (log entries 1 and 2): it is
uninterpreted, since the spec gives no `W`, `H`, `KX`, `KY` or `ACC_W` (91_not_in_source.md N1, N8, N9). -/
opaque Config.build : Config

/-- FREE VALUE (R28, U2; log entries 5 and 25): cell `(c, d)` of the `n`-th line-buffer draw of a source. -/
opaque Config.lbDraw : (source n c d : Nat) → Byte

/-- FREE VALUE (R27, U1; log entries 4 and 25): cell `(r, k)` of the `n`-th window draw of a source (Win0 of
that frame). -/
opaque Config.winDraw : (source n r k : Nat) → Byte

end Sys2Proof
end

