-- ==== Sys2Proof/Machine/Geometry.lean ====
section
/-! DEFINITION. The derived geometry constants (R7) and the frame-start draws of the two arrays
(R27, R28). -/

namespace Sys2Proof

/-- `LBW = W + 2·OFFSET`, the number of line-buffer columns (R7). -/
def Config.lbw (c : Config) : Nat := c.w + 2 * Config.OFFSET

/-- `ROWS = H + OFFSET + 1`, the number of scan rows (R7). -/
def Config.rows (c : Config) : Nat := c.h + Config.OFFSET + 1

/-- `NPOS = ROWS · W`, the number of scan positions per frame (R7). -/
def Config.npos (c : Config) : Nat := c.rows * c.w

/-- `NPIX = W · H`, the number of pixels per frame (R7). -/
def Config.npix (c : Config) : Nat := c.w * c.h

/-- The `n`-th draw of a line buffer of this geometry, from this engine's source: `LBW × 5` unconstrained
cells (R28; log entries 5 and 25). -/
def Config.drawLineBuffer (c : Config) (n : Nat) : LineBuffer :=
  (List.range c.lbw).map fun col => Five.ofFn fun d => Config.lbDraw c.source n col d.val

/-- The `n`-th draw of a window from this engine's source: 25 unconstrained cells (R27; log entries 4
and 25). -/
def Config.drawWindow (c : Config) (n : Nat) : Window :=
  Five.ofFn fun r => Five.ofFn fun k => Config.winDraw c.source n r.val k.val

/-- The canonical form of the line buffer: exactly `LBW` columns (R24), each of five whole cells by
its type. There is no address space (R50, R58), so this is the form of the machine's memory. -/
def LineBuffer.wf (c : Config) (lb : LineBuffer) : Bool :=
  decide (lb.length = c.lbw)

end Sys2Proof
end

