-- ==== Sys2Proof/Syntax.lean ====
section
/-! DEFINITION. The sixteen micro-operations (R80), one constructor per row of spec/opcode_table.json.
No operation has an operand field: every operand is implicit (R86, R89). -/

namespace Sys2Proof

/-- The micro-operations, in the order of their codes (R87). -/
inductive Instr where
  /-- FRAME_START (R200). -/
  | frameStart
  /-- ADAPT_IN (R181). -/
  | adaptIn
  /-- GRAY (R110). -/
  | gray
  /-- INGEST_M (R121). -/
  | ingestM
  /-- INGEST_L (R122). -/
  | ingestL
  /-- INGEST_R (R123). -/
  | ingestR
  /-- INGEST_LR (R124). -/
  | ingestLR
  /-- WIN_INSERT (R125). -/
  | winInsert
  /-- EDGE (R160). -/
  | edge
  /-- EMIT (R126). -/
  | emit
  /-- EXPAND (R180). -/
  | expand
  /-- ADAPT_OUT (R182). -/
  | adaptOut
  /-- TOP_FIXUP (R127). -/
  | topFixup
  /-- ROW_SHIFT (R128). -/
  | rowShift
  /-- ADVANCE (R129). -/
  | advance
  /-- FRAME_END (R201). -/
  | frameEnd
  deriving DecidableEq, Repr

end Sys2Proof
end

