-- ==== Sys2Proof/Machine/State.lean ====
section
/-! DEFINITION. The state of one engine instance with its three interface queues and the model's
bookkeeping (R20, R32, R33), the reasons a run can stop, and the state after reset (R34). -/

namespace Sys2Proof.Machine

/-- The frame-sequencing state (R23). -/
inductive Phase where
  /-- No frame is in progress. -/
  | idle
  /-- Positions of the current frame are being processed. -/
  | scan
  /-- Every position has been processed and FRAME_END is due. -/
  | finish
  deriving DecidableEq, Repr

/-- An RGB beat: three 8-bit channels, no alpha (R82). -/
structure Rgb where
  r : Byte
  g : Byte
  b : Byte
  deriving DecidableEq, Repr

/-- An item of the input queue (R14, R32, R183). -/
inductive InItem where
  /-- One pixel of the frame. -/
  | beat (p : Rgb)
  /-- The host's end-of-frame marker: not a pixel, and it carries no value (R183). -/
  | boundary
  deriving DecidableEq, Repr

/-- A frame's status word (R85, R221). Value 3 is reserved and never produced, so it has no name. -/
inductive FrameStatus where
  | ok
  | frameShort
  | frameLong
  deriving DecidableEq, Repr

/-- The two causes of a FrameError (R220). -/
inductive FrameCause where
  /-- The boundary came before `NPIX` pixels (R222). -/
  | short
  /-- A pixel came after `NPIX` pixels and before the boundary (R223). -/
  | long
  deriving DecidableEq, Repr

/-- What the sticky fault log can hold (R33), and the reasons a step can end in a fault. -/
inductive Fault where
  /-- Raised by ADAPT_IN and FRAME_END (R222, R223). It is TAKEN as a next state (R224), so no step
  ends with it: it only stands in the fault log. Safe: the log adds a record and hides nothing. -/
  | frameError (cause : FrameCause) (count : Nat)
  /-- Raised by a micro-operation that reads a latch no operation of this position has written
  (R29, R231); it stops the model. Safe: no legal sequence reaches it. -/
  | latchUnset (op : Instr) (row col : Nat)
  deriving DecidableEq, Repr

/-- The reasons the model has no meaning for what it is given (R33). -/
inductive Refusal where
  /-- An arm of `exec` whose instruction has no meaning yet; no arm is left that answers so. Safe. -/
  | notModelled (mnemonic : String)
  /-- Raised by `step` on a trace word that spells no operation (R88). Safe: such a trace has no
  meaning for the hardware. -/
  | reservedOp
  /-- Raised by every meaning when the decode table does not schedule it next (R93). Safe, as above. -/
  | outOfSequence
  /-- Raised by an operation that forms a line-buffer column outside `[0, LBW)` (R55). Safe: no
  position in range does so. -/
  | indexRange
  /-- Raised by `step` on a configuration that breaks the accumulator bound (R10, R164). Safe: no such
  hardware is specified. -/
  | accumulatorTooNarrow
  /-- Raised by `step` on a configuration with `W = 0` or `H = 0` (R6, R251). Safe, as above. -/
  | badGeometry
  deriving DecidableEq, Repr

/-- The whole state. -/
structure State where
  /-- The build-time configuration; no operation writes it (R30, R31, R261). -/
  cfg : Config
  /-- R23. -/
  phase : Phase
  /-- Scan row, in `[0, ROWS)` (R22). -/
  row : Nat
  /-- Scan column, in `[0, W)` (R22). -/
  col : Nat
  /-- Index of the next micro-operation in the position's sequence (R36). -/
  upc : Nat
  /-- The line buffer `LB[c][d]` (R24). -/
  lb : LineBuffer
  /-- The window `Win[r][k]` (R26). -/
  win : Window
  /-- Latch `p_in`; `none` is the spec's "unset" (R29). -/
  pIn : Option Rgb
  /-- Latch `g_in` (R29). -/
  gIn : Option Byte
  /-- Latch `e_out` (R29). -/
  eOut : Option Byte
  /-- Latch `p_out` (R29). -/
  pOut : Option Rgb
  /-- A FRAME_LONG discard has begun and is waiting for the boundary (R224, R253; log entry 12). -/
  discarding : Bool
  /-- Input queue, next item first (R32). -/
  input : List InItem
  /-- Output queue, oldest beat first (R32). -/
  output : List Rgb
  /-- Status queue, oldest word first (R32). -/
  status : List FrameStatus
  /-- The model's sticky fault log, oldest first (R33). -/
  faultLog : List Fault
  /-- The model's sticky refusal mark (R33). -/
  refusal : Option Refusal
  /-- The model's record of the emission events `Emit(n, e_out)`, oldest first (R126, R237). -/
  emissions : List (Nat × Byte)
  /-- The MODEL's own: words of a trace still to be issued; empty when the core's own sequencer
  issues (R92–R94; log entry 7). -/
  trace : List OpWord
  /-- The MODEL's own: the number of draws taken so far of this
  engine's source (R27, R28; log entries 4, 5 and 25). -/
  draws : Nat
  deriving DecidableEq, Repr

/-- The state a reset leaves, for a configuration and the next unused draw (R34, R250): IDLE at (0, 0),
the arrays unspecified (drawn), the latches unset, the queues empty, the log and the mark clear. -/
def State.afterReset (c : Config) (n : Nat) : State where
  cfg := c
  phase := .idle
  row := 0
  col := 0
  upc := 0
  lb := c.drawLineBuffer n
  win := c.drawWindow n
  pIn := none
  gIn := none
  eOut := none
  pOut := none
  discarding := false
  input := []
  output := []
  status := []
  faultLog := []
  refusal := none
  emissions := []
  trace := []
  draws := n + 1

/-- The machine right after its first reset: the build's own configuration, which nothing interprets,
with the spec's unbounded queues (R32, R34; log entries 1 and 13). -/
def State.reset : State :=
  State.afterReset { Config.build with outCap := none, statusCap := none } 0

end Sys2Proof.Machine
end

