-- ==== Sys2Proof/Machine/Operands.lean ====
section
/-! DEFINITION. The fixed places the micro-operations take their operands from and put their results
(R89), and the datapath functions. All operands are implicit; no immediate, no register field. -/

namespace Sys2Proof

/-- Entry `d` of a line-buffer column: `LB[c][d]`, or nothing outside `[0, LBW)` (R24, R55). -/
def LineBuffer.cell (lb : LineBuffer) (c : Nat) (d : Fin 5) : Option Byte :=
  lb[c]?.map fun x => x.get d

/-- A column with its newest depth, `K−1`, replaced (R121). -/
def Cells.setNewest (x : Cells) (v : Byte) : Cells :=
  { x with a4 := v }

/-- TOP_FIXUP on one column: the newest depth copied into every older one (R127). -/
def Cells.seed (x : Cells) : Cells :=
  ⟨x.a4, x.a4, x.a4, x.a4, x.a4⟩

/-- ROW_SHIFT on one column: each depth takes the next newer one, the newest stays; every source is
read before any destination is written (R128, R257). -/
def Cells.age (x : Cells) : Cells :=
  ⟨x.a1, x.a2, x.a3, x.a4, x.a4⟩

/-- One window row shifted left, a new rightmost cell inserted (R125). -/
def Cells.shiftIn (x : Cells) (v : Byte) : Cells :=
  ⟨x.a1, x.a2, x.a3, x.a4, v⟩

/-- WIN_INSERT on the whole window: depth `r` of the column becomes the new last cell of row `r`
(R26, R125). -/
def Window.shiftIn (w : Window) (column : Cells) : Window :=
  Five.zipWith Cells.shiftIn w column

/-- One column of the line buffer rewritten, the rest unchanged. -/
def LineBuffer.update (lb : LineBuffer) (c : Nat) (f : Cells → Cells) : LineBuffer :=
  lb.modify c f

/-- `LB[c][K−1] <- v` for each listed column in order (R121–R124). -/
def LineBuffer.writeNewest (lb : LineBuffer) (cols : List Nat) (v : Byte) : LineBuffer :=
  cols.foldl (fun acc c => acc.update c fun x => x.setNewest v) lb

/-- Columns `[0, OFFSET]`: the left margin and frame column 0 (R122). -/
def leftColumns : List Nat :=
  List.range (Config.OFFSET + 1)

/-- Columns `[W−1+OFFSET, W+2·OFFSET)`: frame column `W−1` and the right margin (R123). -/
def Config.rightColumns (c : Config) : List Nat :=
  List.range' (c.w - 1 + Config.OFFSET) (Config.OFFSET + 1)

/-- Columns `[0, OFFSET]` and then `[OFFSET, 2·OFFSET+1)`: both margins of a one-pixel-wide frame (R124). -/
def bothColumns : List Nat :=
  List.range (Config.OFFSET + 1) ++ List.range' Config.OFFSET (Config.OFFSET + 1)

namespace Machine

/-- `GRAY_DIV = 8` (R9). -/
def GRAY_DIV : Nat := 8

/-- `THRESH = 200` (R9). -/
def THRESH : Nat := 200

/-- `EDGE_ON = 255` (R9). -/
def EDGE_ON : Byte := 255

/-- `EDGE_OFF = 0` (R9). -/
def EDGE_OFF : Byte := 0

/-- `(R div 8) + (G div 8) + (B div 8)` (R110). -/
def grayOf (p : Rgb) : Byte :=
  BitVec.ofNat 8 (p.r.toNat / GRAY_DIV + p.g.toNat / GRAY_DIV + p.b.toNat / GRAY_DIV)

/-- EXPAND's result: the value in all three channels (R180). -/
def expandOf (e : Byte) : Rgb :=
  ⟨e, e, e⟩

/-- `Σ zext(x[j]) · k[j]` over one window row (R160). -/
def rowProduct (x : Cells) (k : Five Int) : Int :=
  (Five.zipWith (fun (v : Byte) (m : Int) => (v.toNat : Int) * m) x k).sum

/-- `Σ_i Σ_j zext(Win[i][j]) · K[i][j]`, element by element, the kernel not flipped, over unbounded
integers (R160, R164, R165). -/
def gradient (k : Kernel) (w : Window) : Int :=
  (Five.zipWith rowProduct w k).sum

/-- `mag = |Gx| + |Gy|` (R160). -/
def magnitude (c : Config) (w : Window) : Nat :=
  (gradient c.kx w).natAbs + (gradient c.ky w).natAbs

/-- `c0 = col + OFFSET`, the line-buffer column of the current frame column (R24, R120). -/
def State.c0 (s : State) : Nat :=
  s.col + Config.OFFSET

/-- The emission index `n = (row − OFFSET − 1)·W + col` (R17, R126). -/
def State.emissionIndex (s : State) : Nat :=
  (s.row - Config.OFFSET - 1) * s.cfg.w + s.col

/-- The number of input pixels of this frame consumed before this position (R39). -/
def State.nIn (s : State) : Nat :=
  min s.row s.cfg.h * s.cfg.w + (if s.row < s.cfg.h then s.col else 0)

/-- The number of outputs of this frame emitted before this position (R39). -/
def State.nOut (s : State) : Nat :=
  (s.row - Config.OFFSET - 1) * s.cfg.w + (if Config.OFFSET < s.row then s.col else 0)

end Machine

end Sys2Proof
end

