-- ==== Sys2Proof/Machine/Flags.lean ====
section
/-! DEFINITION. The core has no flags, condition codes or predicates (R21), and no operation writes one.
What stands here instead are the conditions its micro-operations test: the threshold (R163), the
queues' fullness (R253), and the status word a frame ends with (R85, R221). -/

namespace Sys2Proof.Machine

/-- The threshold: strictly above `THRESH` is an edge (R160, R163). -/
def edgeValue (mag : Nat) : Byte :=
  if THRESH < mag then EDGE_ON else EDGE_OFF

/-- EDGE's result for a window (R160). -/
def edgeOf (c : Config) (w : Window) : Byte :=
  edgeValue (magnitude c w)

/-- A queue with an optional capacity cannot accept another item (R253); never so when unbounded (R32). -/
def fullAt (cap : Option Nat) (n : Nat) : Bool :=
  match cap with
  | none => false
  | some k => decide (k ≤ n)

/-- The output queue cannot accept a beat (R182, R253). -/
def State.outputFull (s : State) : Bool :=
  fullAt s.cfg.outCap s.output.length

/-- The status queue cannot accept a word (R253). -/
def State.statusFull (s : State) : Bool :=
  fullAt s.cfg.statusCap s.status.length

/-- The status word of a frame ended by a FrameError (R221–R223). -/
def FrameCause.status (c : FrameCause) : FrameStatus :=
  match c with
  | .short => .frameShort
  | .long => .frameLong

end Sys2Proof.Machine
end

