-- ==== Sys2Proof/WellFormed.lean ====
section
/-! DEFINITION. What is well-formed: an instruction (always: no operand can be wrong), and a
configuration (R6, R10, R251). -/

namespace Sys2Proof

/-- Every micro-operation is well-formed: the word is the code alone, with no field an instruction
could carry out of range (R86, R89). -/
def Instr.wf (i : Instr) : Bool :=
  match i with
  | .frameStart | .adaptIn | .gray | .ingestM | .ingestL | .ingestR | .ingestLR | .winInsert => true
  | .edge | .emit | .expand | .adaptOut | .topFixup | .rowShift | .advance | .frameEnd => true

/-- `Σ|K[i][j]|` over the 25 entries (R10). -/
def Kernel.absSum (k : Kernel) : Nat :=
  (k.map fun row => (row.map Int.natAbs).natSum).natSum

/-- `ΣK[i][j]` over the 25 entries (R161, R166). -/
def Kernel.entrySum (k : Kernel) : Int :=
  (k.map Five.sum).sum

/-- `W ≥ 1` and `H ≥ 1` (R6). -/
def Config.geometryOk (c : Config) : Bool :=
  decide (1 ≤ c.w) && decide (1 ≤ c.h)

/-- The accumulator bound: `2^(ACC_W−1)` exceeds `255·max(Σ|KX|, Σ|KY|)` and `255·(Σ|KX| + Σ|KY|)`
(R10). DEDUCED (log entry 3): a signed accumulator has at least one bit. -/
def Config.accumulatorOk (c : Config) : Bool :=
  decide (1 ≤ c.accW) &&
  decide (255 * max c.kx.absSum c.ky.absSum < 2 ^ (c.accW - 1)) &&
  decide (255 * (c.kx.absSum + c.ky.absSum) < 2 ^ (c.accW - 1))

/-- A well-formed configuration (R6, R10, R251 item 1). -/
def Config.wf (c : Config) : Bool :=
  c.geometryOk && c.accumulatorOk

/-- The named kernel property `KernelZeroSum` (R161): both kernels sum to zero. Nothing in the model
assumes it; a statement that needs it says so. -/
def Config.kernelZeroSum (c : Config) : Bool :=
  decide (c.kx.entrySum = 0) && decide (c.ky.entrySum = 0)

end Sys2Proof
end

