-- ==== Sys2Proof/Decode.lean ====
section
/-! DEFINITION. The total decoder of the 5-bit micro-operation words (R86–R88), the encoder, and the
trace form of a list of micro-operations (R94). -/

namespace Sys2Proof

/-- R87's table, read from the word; R88's reserved words, `0x00` and `0x11`–`0x1F`, decode to nothing (`Invalid`). -/
def decode (w : OpWord) : Option Instr :=
  match w.toNat with
  | 0x01 => some .frameStart
  | 0x02 => some .adaptIn
  | 0x03 => some .gray
  | 0x04 => some .ingestM
  | 0x05 => some .ingestL
  | 0x06 => some .ingestR
  | 0x07 => some .ingestLR
  | 0x08 => some .winInsert
  | 0x09 => some .edge
  | 0x0A => some .emit
  | 0x0B => some .expand
  | 0x0C => some .adaptOut
  | 0x0D => some .topFixup
  | 0x0E => some .rowShift
  | 0x0F => some .advance
  | 0x10 => some .frameEnd
  | _ => none

/-- R87's table, read from the mnemonic. -/
def encode (i : Instr) : OpWord :=
  match i with
  | .frameStart => 0b00001#5
  | .adaptIn => 0b00010#5
  | .gray => 0b00011#5
  | .ingestM => 0b00100#5
  | .ingestL => 0b00101#5
  | .ingestR => 0b00110#5
  | .ingestLR => 0b00111#5
  | .winInsert => 0b01000#5
  | .edge => 0b01001#5
  | .emit => 0b01010#5
  | .expand => 0b01011#5
  | .adaptOut => 0b01100#5
  | .topFixup => 0b01101#5
  | .rowShift => 0b01110#5
  | .advance => 0b01111#5
  | .frameEnd => 0b10000#5

/-- The instruction the decoder reads from a table word: the word is its five low bits, and any bit
above them makes it no micro-operation word (R86, R96; log entry 21). -/
def decodeTableWord (nbits w : Nat) : Option Instr :=
  if w < 2 ^ min nbits 5 then decode (BitVec.ofNat 5 w) else none

/-- The mnemonic, as the table and the trace syntax write it (R80, R94). -/
def Instr.mnemonic (i : Instr) : String :=
  match i with
  | .frameStart => "FRAME_START"
  | .adaptIn => "ADAPT_IN"
  | .gray => "GRAY"
  | .ingestM => "INGEST_M"
  | .ingestL => "INGEST_L"
  | .ingestR => "INGEST_R"
  | .ingestLR => "INGEST_LR"
  | .winInsert => "WIN_INSERT"
  | .edge => "EDGE"
  | .emit => "EMIT"
  | .expand => "EXPAND"
  | .adaptOut => "ADAPT_OUT"
  | .topFixup => "TOP_FIXUP"
  | .rowShift => "ROW_SHIFT"
  | .advance => "ADVANCE"
  | .frameEnd => "FRAME_END"

/-- A trace's binary form: the list of codes, one per mnemonic, in order (R94). -/
def encodeTrace (is : List Instr) : List OpWord :=
  is.map encode

/-- Reading a trace back: nothing if any word is reserved (R88, R94). -/
def decodeTrace (ws : List OpWord) : Option (List Instr) :=
  match ws with
  | [] => some []
  | w :: rest =>
    match decode w, decodeTrace rest with
    | some i, some is => some (i :: is)
    | _, _ => none

/-- The sixteen micro-operations in the order of their codes (R87). -/
def Instr.all : List Instr :=
  [.frameStart, .adaptIn, .gray, .ingestM, .ingestL, .ingestR, .ingestLR, .winInsert,
   .edge, .emit, .expand, .adaptOut, .topFixup, .rowShift, .advance, .frameEnd]

/-- The micro-operation of a mnemonic, upper case only (R94). -/
def Instr.ofMnemonic (name : List Char) : Option Instr :=
  Instr.all.find? fun i => i.mnemonic.toList == name

/-- The pieces of a text between the separators. -/
def splitAtChar (sep : Char) (text : List Char) : List (List Char) :=
  match text with
  | [] => [[]]
  | c :: rest =>
    if c = sep then [] :: splitAtChar sep rest
    else match splitAtChar sep rest with
      | [] => [[c]]
      | piece :: pieces => (c :: piece) :: pieces

/-- A decimal number of at least one digit. -/
def isDecimal (text : List Char) : Bool :=
  !text.isEmpty && text.all Char.isDigit

/-- A position mark `@row,col:` (R94), by its shape alone. DESIGN CHOICE (log entry 27): its two numbers
are not held against the position where the mnemonics run. -/
def isPositionMark (word : List Char) : Bool :=
  match word with
  | '@' :: rest =>
    rest.getLast? == some ':' &&
      match splitAtChar ',' rest.dropLast with
      | [row, col] => isDecimal row && isDecimal col
      | _ => false
  | _ => false

/-- The words of a trace text: line by line, `;` and what follows it dropped, split at spaces (R94). -/
def traceWords (text : List Char) : List (List Char) :=
  (splitAtChar '\n' text).flatMap fun line =>
    (splitAtChar ' ' (line.takeWhile fun c => c != ';')).filter fun word => !word.isEmpty

/-- Reading a trace text: its mnemonics in order, position marks passed over; nothing if a word is
neither (R94). DESIGN CHOICE (log entry 27): a mark says nothing of its own; which positions the mnemonics
run at is for the decode table (R93). -/
def readTrace (text : List Char) : Option (List Instr) :=
  ((traceWords text).filter fun word => !isPositionMark word).mapM Instr.ofMnemonic

/-- A position's line of trace text, `@row,col:` and its mnemonics separated by spaces (R94). -/
def positionText (row col : Nat) (is : List Instr) : String :=
  "@" ++ toString row ++ "," ++ toString col ++ ":" ++
    is.foldl (fun acc i => acc ++ " " ++ i.mnemonic) ""

end Sys2Proof
end

