-- ==== Sys2Proof/Machine/Sequencer.lean ====
section
/-! DEFINITION. The position decode table (R90, R91), the frame program (R92), the pseudo-operations
(R95), the micro-operation that is due (R36, R93), and where its word comes from (R93, R94). -/

namespace Sys2Proof

/-- The ingest variant of a column (R91); also the pseudo-operation `INGEST` (R95). -/
def Config.ingestAt (c : Config) (col : Nat) : Instr :=
  if col = 0 ∧ col = c.w - 1 then .ingestLR
  else if col = 0 then .ingestL
  else if col = c.w - 1 then .ingestR
  else .ingestM

/-- The input stage of a position (R60, R90). -/
def Config.inputStage (c : Config) (row col : Nat) : List Instr :=
  if row < c.h then [.adaptIn, .gray, c.ingestAt col] else []

/-- The emit stage of a position (R60, R90). -/
def emitStage (row : Nat) : List Instr :=
  if Config.OFFSET < row then [.winInsert, .edge, .emit, .expand, .adaptOut] else []

/-- `ops(row, col)` (R90); also the pseudo-operation `STEP` (R95). -/
def Config.opsAt (c : Config) (row col : Nat) : List Instr :=
  c.inputStage row col ++ emitStage row ++ (if row = 0 then [.topFixup] else [.rowShift]) ++ [.advance]

/-- The pseudo-operation `SCANROW` (R95). -/
def Config.scanRow (c : Config) (row : Nat) : List Instr :=
  (List.range c.w).flatMap fun col => c.opsAt row col

/-- The frame program (R92); also the pseudo-operation `FRAME` (R95). -/
def Config.frameProgram (c : Config) : List Instr :=
  .frameStart :: ((List.range c.rows).flatMap fun row => c.scanRow row) ++ [.frameEnd]

namespace Machine

/-- The one micro-operation that may run next: FRAME_START in IDLE (R200), the position's sequence in
SCAN (R36, R90), FRAME_END in FINISH (R201). -/
def State.scheduled (s : State) : Option Instr :=
  match s.phase with
  | .idle => some .frameStart
  | .scan => (s.cfg.opsAt s.row s.col)[s.upc]?
  | .finish => some .frameEnd

/-- The word issued next: the trace's head in a trace-driven run (R93, R94), else the word of the
micro-operation the core's own sequence has due (R90, R92; log entry 7). -/
def State.fetchWord (s : State) : Option OpWord :=
  match s.trace with
  | w :: _ => some w
  | [] => s.scheduled.map encode

end Machine

end Sys2Proof
end

