-- ==== Sys2Proof/Machine/Ops.lean ====
section
/-! DEFINITION. The operations the meanings share: issuing a micro-operation in sequence (R93), reading
a latch (R29, R231), holding (R253), reaching the line buffer (R55), pushing on the queues (R14), and
taking a FrameError, the one exception (R224). -/

namespace Sys2Proof.Machine

/-- The outcome of one micro-operation. -/
abbrev Result := Host.Outcome State Fault Refusal

/-- A hold: no step yet, so nothing changes; neither a fault nor a refusal (R14, R253; log entry 6). -/
def hold (s : State) : Result :=
  .next s

/-- A micro-operation runs only where the decode table schedules it next; anywhere else the model
refuses it, before it runs (R93, R226). -/
def issue (i : Instr) (s : State) (body : Result) : Result :=
  if s.scheduled = some i then body else .refused .outOfSequence

/-- Reading a latch: its value, or the fault of an unset latch (R29, R231). -/
def readLatch {α : Type} (latch : Option α) (i : Instr) (s : State) (use : α → Result) : Result :=
  match latch with
  | some v => use v
  | none => .fault (.latchUnset i s.row s.col)

/-- The columns an operation reaches must exist (R55); decided before the operation runs (R226). -/
def reachColumns (cols : List Nat) (s : State) (body : Result) : Result :=
  if cols.all fun c => decide (c < s.lb.length) then body else .refused .indexRange

/-- A micro-operation other than ADVANCE is done: the next one of the position is due (R36), and a
trace-driven run moves to its next word. -/
def State.retire (s : State) : State :=
  { s with upc := s.upc + 1, trace := s.trace.tail }

/-- `p_in, g_in, e_out, p_out <- unset` (R129, R200, R224). -/
def State.clearLatches (s : State) : State :=
  { s with pIn := none, gIn := none, eOut := none, pOut := none }

/-- `OutPush(p)` (R14). -/
def State.outPush (s : State) (p : Rgb) : State :=
  { s with output := s.output ++ [p] }

/-- `StatusPush(w)` (R14). -/
def State.statusPush (s : State) (w : FrameStatus) : State :=
  { s with status := s.status ++ [w] }

/-- An entry of the sticky fault log (R33). -/
def State.logFault (s : State) (f : Fault) : State :=
  { s with faultLog := s.faultLog ++ [f] }

/-- The frame is over: `phase <- IDLE` (R201, R224). -/
def State.endFrame (s : State) : State :=
  { s with phase := .idle, discarding := false, trace := s.trace.tail }

/-- The last steps of a FrameError: latches unset, `phase <- IDLE`, the log entry (R224). -/
def State.endInError (s : State) (cause : FrameCause) (count : Nat) : State :=
  (s.clearLatches.endFrame).logFault (.frameError cause count)

/-- The input after the rest of a malformed frame is dropped: what follows the next BOUNDARY, or
nothing if no BOUNDARY has been appended yet (R224). -/
def afterBoundary (items : List InItem) : Option (List InItem) :=
  match items with
  | [] => none
  | .boundary :: rest => some rest
  | .beat _ :: rest => afterBoundary rest

/-- The FRAME_LONG discard: pop items until BOUNDARY; with none in the queue yet, everything is popped
and the discard waits (R224, R253; log entry 12). The log records the count it is given. -/
def State.discardFrame (s : State) (count : Nat) : State :=
  match afterBoundary s.input with
  | some rest => ({ s with input := rest }).endInError .long count
  | none => { s with input := [], discarding := true }

/-- TAKING THE EXCEPTION: `raise FrameError(cause, count)` (R224). The status word is pushed; for
FRAME_LONG the rest of the frame is discarded; the latches are unset, the phase becomes IDLE, and the
log records it. Nothing is saved and there is no handler and no return operation (R227, R230). -/
def State.takeFrameError (s : State) (cause : FrameCause) (count : Nat) : State :=
  match cause with
  | .short => (s.statusPush cause.status).endInError .short count
  | .long => (s.statusPush cause.status).discardFrame count

/-- Raising a FrameError once the item that shows it is popped; a full status queue of a bounded
realisation holds the whole micro-operation (R253; log entry 13). -/
def raiseFrameError (s : State) (rest : List InItem) (cause : FrameCause) (count : Nat) : Result :=
  if s.statusFull then hold s else .next (({ s with input := rest }).takeFrameError cause count)

/-- Why a configuration has no machine, if it has none: `W` or `H` is 0, or the accumulator is too
narrow (R6, R10, R164, R251). DESIGN CHOICE (log entry 24): no rule says which reason is given when both
are wrong; the model gives the geometry's. -/
def configRefusal (c : Config) : Option Refusal :=
  if c.geometryOk then (if c.accumulatorOk then none else some .accumulatorTooNarrow)
  else some .badGeometry

/-- A LatchUnset in the log has stopped the model (R231); a FrameError has not (R227). -/
def Fault.stops (f : Fault) : Bool :=
  match f with
  | .frameError _ _ => false
  | .latchUnset _ _ _ => true

/-- The state with the model's bookkeeping brought up to date after an outcome: a fault is appended to
the sticky log and a refusal sets the sticky mark (R33, R231). DESIGN CHOICE (log entry 10): a model that a
recorded LatchUnset has stopped answers it again at each step, and appends no second entry for it. -/
def State.settle (s : State) (r : Result) : State :=
  match r with
  | .next t => t
  | .fault f => if s.faultLog.any Fault.stops then s else s.logFault f
  | .refused why => { s with refusal := some why }

end Sys2Proof.Machine
end

