-- ==== Sys2Proof/Machine/Adapters.lean ====
section
/-! DEFINITION. The expander and the stream adapters: EXPAND (R180), ADAPT_IN (R181), ADAPT_OUT (R182). -/

namespace Sys2Proof.Machine

/-- EXPAND (R180): `p_out` takes `e_out` in all three channels. -/
def execExpand (s : State) : Result :=
  issue .expand s <| readLatch s.eOut .expand s fun e =>
    .next ({ s with pOut := some (expandOf e) }).retire

/-- ADAPT_IN (R181): hold on an empty queue; a beat into `p_in`, unchanged (R185); BOUNDARY raises
FrameError(FRAME_SHORT, n_in) (R222). -/
def execAdaptIn (s : State) : Result :=
  issue .adaptIn s <|
    match s.input with
    | [] => hold s
    | .beat p :: rest => .next ({ s with input := rest, pIn := some p }).retire
    | .boundary :: rest => raiseFrameError s rest .short s.nIn

/-- ADAPT_OUT (R182): hold on a full queue (bounded realisation), else push `p_out`, unchanged (R185). -/
def execAdaptOut (s : State) : Result :=
  issue .adaptOut s <|
    if s.outputFull then hold s
    else readLatch s.pOut .adaptOut s fun p => .next (s.outPush p).retire

end Sys2Proof.Machine
end

