-- ==== Sys2Proof/Machine/EdgeKernel.lean ====
section
/-! DEFINITION. The gradient/edge kernel: EDGE (R160), and an `ACC_W`-bit signed accumulation (R164), the
hardware's where the bound of R10 holds. No step uses the second. What the hardware does on an overflow
the spec does not say (R164; 91_not_in_source.md N8): that these definitions wrap there is the model's
DESIGN CHOICE (log entry 26). -/

namespace Sys2Proof.Machine

/-- EDGE (R160): `e_out` becomes the binary edge value of the window. -/
def execEdge (s : State) : Result :=
  issue .edge s <|
    .next ({ s with eOut := some (edgeOf s.cfg s.win) }).retire

/-- One product in `n`-bit signed arithmetic (R164). DESIGN CHOICE (log entry 26): wrapping. -/
def productBits (n : Nat) (v : Byte) (m : Int) : BitVec n :=
  BitVec.ofNat n v.toNat * BitVec.ofInt n m

/-- One row accumulated in `n`-bit signed arithmetic onto what was accumulated before (R164).
DESIGN CHOICE (log entry 26): wrapping. -/
def accumulateRow (n : Nat) (acc : BitVec n) (x : Cells) (k : Five Int) : BitVec n :=
  acc + productBits n x.a0 k.a0 + productBits n x.a1 k.a1 + productBits n x.a2 k.a2
    + productBits n x.a3 k.a3 + productBits n x.a4 k.a4

/-- The gradient as an `n`-bit signed accumulator forms it where nothing overflows (R164). DESIGN CHOICE
(log entry 26): on an overflow it wraps, which no rule gives. -/
def gradientBits (n : Nat) (k : Kernel) (w : Window) : BitVec n :=
  accumulateRow n (accumulateRow n (accumulateRow n (accumulateRow n (accumulateRow n 0
    w.a0 k.a0) w.a1 k.a1) w.a2 k.a2) w.a3 k.a3) w.a4 k.a4

/-- `|Gx| + |Gy|` as an `n`-bit signed adder forms it where nothing overflows (R164). DESIGN CHOICE (log
entry 26): on an overflow it wraps, which no rule gives. -/
def magnitudeBits (n : Nat) (c : Config) (w : Window) : BitVec n :=
  (gradientBits n c.kx w).abs + (gradientBits n c.ky w).abs

end Sys2Proof.Machine
end

