-- ==== Sys2Proof/Machine/FrameSequence.lean ====
section
/-! DEFINITION. Frame sequencing: FRAME_START (R200) and FRAME_END (R201). -/

namespace Sys2Proof.Machine

/-- FRAME_START (R200): SCAN at (0, 0), a fresh draw of both arrays (R27, R28), the latches unset. -/
def execFrameStart (s : State) : Result :=
  issue .frameStart s <|
    .next { s.clearLatches with
      phase := .scan, row := 0, col := 0, upc := 0,
      lb := s.cfg.drawLineBuffer s.draws, win := s.cfg.drawWindow s.draws,
      draws := s.draws + 1, trace := s.trace.tail }

/-- FRAME_END (R201): hold on an empty queue; BOUNDARY ends the frame with OK; a pixel raises
FrameError(FRAME_LONG, NPIX) (R223). A discard that is waiting goes on where it stopped (R224, R253). -/
def execFrameEnd (s : State) : Result :=
  issue .frameEnd s <|
    match s.discarding, s.input with
    | true, _ => .next (s.discardFrame s.cfg.npix)
    | false, [] => hold s
    | false, .boundary :: rest =>
      if s.statusFull then hold s
      else .next (({ s with input := rest }).statusPush .ok).endFrame
    | false, .beat _ :: rest => raiseFrameError s rest .long s.cfg.npix

end Sys2Proof.Machine
end

