-- ==== Sys2Proof/Machine/Gray.lean ====
section
/-! DEFINITION. The grayscale converter: GRAY (R110). -/

namespace Sys2Proof.Machine

/-- GRAY (R110): `g_in` becomes the gray value of `p_in`. -/
def execGray (s : State) : Result :=
  issue .gray s <| readLatch s.pIn .gray s fun p =>
    .next ({ s with gIn := some (grayOf p) }).retire

end Sys2Proof.Machine
end

