-- ==== Sys2Proof/Machine/WindowEngine.lean ====
section
/-! DEFINITION. The line-buffer window engine (R120): the four ingests, WIN_INSERT, EMIT, TOP_FIXUP,
ROW_SHIFT and ADVANCE. -/

namespace Sys2Proof.Machine

/-- What the four ingests share: `g_in` into depth `K−1` of the given columns (R121–R124). -/
def ingest (i : Instr) (cols : List Nat) (s : State) : Result :=
  issue i s <| reachColumns cols s <| readLatch s.gIn i s fun g =>
    .next ({ s with lb := s.lb.writeNewest cols g }).retire

/-- INGEST_M (R121): `LB[col+OFFSET][K−1] <- g_in`. -/
def execIngestM (s : State) : Result :=
  ingest .ingestM [s.c0] s

/-- INGEST_L (R122): the left margin and frame column 0 itself (C1). -/
def execIngestL (s : State) : Result :=
  ingest .ingestL leftColumns s

/-- INGEST_R (R123): frame column `W−1` itself and the right margin (C1). -/
def execIngestR (s : State) : Result :=
  ingest .ingestR s.cfg.rightColumns s

/-- INGEST_LR (R124): the only column of a one-pixel-wide frame, and both margins. -/
def execIngestLR (s : State) : Result :=
  ingest .ingestLR bothColumns s

/-- WIN_INSERT (R125): the window shifts left and takes the line-buffer column `c0`. -/
def execWinInsert (s : State) : Result :=
  issue .winInsert s <|
    match s.lb[s.c0]? with
    | none => .refused .indexRange
    | some column => .next ({ s with win := s.win.shiftIn column }).retire

/-- EMIT (R126): the emission event `Emit(n, e_out)` is recorded; `e_out` is passed on unchanged. -/
def execEmit (s : State) : Result :=
  issue .emit s <| readLatch s.eOut .emit s fun e =>
    .next ({ s with emissions := s.emissions ++ [(s.emissionIndex, e)] }).retire

/-- TOP_FIXUP (R127): the newest depth of column `c0` into its older depths. -/
def execTopFixup (s : State) : Result :=
  issue .topFixup s <| reachColumns [s.c0] s <|
    .next ({ s with lb := s.lb.update s.c0 Cells.seed }).retire

/-- ROW_SHIFT (R128): column `c0` ages by one row. -/
def execRowShift (s : State) : Result :=
  issue .rowShift s <| reachColumns [s.c0] s <|
    .next ({ s with lb := s.lb.update s.c0 Cells.age }).retire

/-- The next position in raster order, or FINISH after the last (R129). -/
def State.nextPosition (s : State) : State :=
  if s.col + 1 < s.cfg.w then { s with col := s.col + 1 }
  else if s.row + 1 < s.cfg.rows then { s with row := s.row + 1, col := 0 }
  else { s with phase := .finish }

/-- ADVANCE (R129): the latches are unset, the position moves on, and its sequence starts afresh (R36). -/
def execAdvance (s : State) : Result :=
  issue .advance s <|
    .next ({ s.clearLatches with upc := 0, trace := s.trace.tail }).nextPosition

end Sys2Proof.Machine
end

