-- ==== Sys2Proof/Machine/Dispatch.lean ====
section
/-! DEFINITION. One arm per micro-operation, each one call of its meaning. -/

namespace Sys2Proof.Machine

def exec (i : Instr) (s : State) : Host.Outcome State Fault Refusal :=
  match i with
  | .frameStart => Sys2Proof.Machine.execFrameStart s
  | .adaptIn => Sys2Proof.Machine.execAdaptIn s
  | .gray => Sys2Proof.Machine.execGray s
  | .ingestM => Sys2Proof.Machine.execIngestM s
  | .ingestL => Sys2Proof.Machine.execIngestL s
  | .ingestR => Sys2Proof.Machine.execIngestR s
  | .ingestLR => Sys2Proof.Machine.execIngestLR s
  | .winInsert => Sys2Proof.Machine.execWinInsert s
  | .edge => Sys2Proof.Machine.execEdge s
  | .emit => Sys2Proof.Machine.execEmit s
  | .expand => Sys2Proof.Machine.execExpand s
  | .adaptOut => Sys2Proof.Machine.execAdaptOut s
  | .topFixup => Sys2Proof.Machine.execTopFixup s
  | .rowShift => Sys2Proof.Machine.execRowShift s
  | .advance => Sys2Proof.Machine.execAdvance s
  | .frameEnd => Sys2Proof.Machine.execFrameEnd s

end Sys2Proof.Machine
end

