-- ==== Sys2Proof/Machine/Fetch.lean ====
section
/-! DEFINITION. What `step` looks at before a micro-operation runs: the sticky marks and the
configuration (R33, R226, R251), and the word that is issued (R86, R93). Also where `withFetchWord`
places the machine so that a given word is the next one it issues (log entry 8). -/

namespace Sys2Proof.Machine

/-- The stop that already stands, if one does: the sticky refusal mark, a LatchUnset in the sticky log,
or a configuration that has no machine (R33, R231, R251; log entry 24). -/
def State.standing (s : State) : Option Result :=
  match s.refusal with
  | some why => some (.refused why)
  | none =>
    match s.faultLog.find? Fault.stops with
    | some f => some (.fault f)
    | none => (configRefusal s.cfg).map fun why => .refused why

/-- The micro-operation issued next, or the refusal of a word that spells none (R86, R88). A machine
with no micro-operation due has left its sequence (R93). -/
def State.fetch (s : State) : Except Refusal Instr :=
  match s.fetchWord with
  | none => .error .outOfSequence
  | some w =>
    match decode w with
    | none => .error .reservedOp
    | some i => .ok i

/-- The smallest geometry whose frame schedules the micro-operation: one row, three columns, or one
column for INGEST_LR (R91). Zero kernels keep any accumulator within its bound (R10). -/
def fetchConfig (i : Option Instr) : Config :=
  let zeros : Five Int := ⟨0, 0, 0, 0, 0⟩
  { w := if i = some .ingestLR then 1 else 3
    h := 1
    kx := ⟨zeros, zeros, zeros, zeros, zeros⟩
    ky := ⟨zeros, zeros, zeros, zeros, zeros⟩
    accW := 1
    outCap := none
    statusCap := none
    source := 0 }

/-- Where in that frame the micro-operation is due: row, column, index in the position's sequence. -/
def fetchPlace (i : Instr) : Nat × Nat × Nat :=
  match i with
  | .frameStart => (0, 0, 0)
  | .adaptIn => (0, 0, 0)
  | .gray => (0, 0, 1)
  | .ingestL => (0, 0, 2)
  | .ingestLR => (0, 0, 2)
  | .ingestM => (0, 1, 2)
  | .ingestR => (0, 2, 2)
  | .topFixup => (0, 0, 3)
  | .rowShift => (1, 0, 0)
  | .advance => (1, 0, 1)
  | .winInsert => (3, 0, 0)
  | .edge => (3, 0, 1)
  | .emit => (3, 0, 2)
  | .expand => (3, 0, 3)
  | .adaptOut => (3, 0, 4)
  | .frameEnd => (3, 2, 0)

/-- The phase in which the micro-operation is due (R90, R200, R201). -/
def fetchPhase (i : Instr) : Phase :=
  match i with
  | .frameStart => .idle
  | .frameEnd => .finish
  | .adaptIn | .gray | .ingestM | .ingestL | .ingestR | .ingestLR | .winInsert => .scan
  | .edge | .emit | .expand | .adaptOut | .topFixup | .rowShift | .advance => .scan

/-- The item ADAPT_IN and FRAME_END hold for on an empty input queue (R253): with none, neither has a step. -/
def fetchInput (i : Instr) (items : List InItem) : List InItem :=
  match items, i with
  | [], .adaptIn => [.beat ⟨0, 0, 0⟩]
  | [], .frameEnd => [.boundary]
  | _, _ => items

/-- The machine placed in the middle of a frame where the micro-operation is due, with the latches the
position's earlier micro-operations have written (R29), a line buffer of that geometry, and an item where it would hold. -/
def State.placedFor (s : State) (i : Instr) : State :=
  let c := { fetchConfig (some i) with source := s.cfg.source }
  let (row, col, upc) := fetchPlace i
  let done := if fetchPhase i = .scan then (c.opsAt row col).take upc else []
  { s with
    cfg := c
    phase := fetchPhase i
    row := row
    col := col
    upc := upc
    lb := c.drawLineBuffer s.draws
    pIn := if done.contains .adaptIn then some ⟨0, 0, 0⟩ else none
    gIn := if done.contains .gray then some 0 else none
    eOut := if done.contains .edge then some EDGE_OFF else none
    pOut := if done.contains .expand then some (expandOf EDGE_OFF) else none
    discarding := false
    input := fetchInput i s.input
    faultLog := []
    refusal := none }

/-- The machine about to issue the given word of a trace (R93, R94). A reserved word is due nowhere, so
the machine stands in IDLE then. -/
def State.placedForWord (s : State) (w : OpWord) : State :=
  match decode w with
  | some i => { s.placedFor i with trace := [w] }
  | none => { s.placedFor .frameStart with trace := [w] }

end Sys2Proof.Machine
end

