-- ==== Sys2Proof/Machine/Step.lean ====
section
/-! DEFINITION. One step of the core: the micro-operation that is issued next, run once (R13, R36, D13).
A stop that already stands comes first (R226). -/

namespace Sys2Proof.Machine

/-- One micro-operation. -/
def step (s : State) : Host.Outcome State Fault Refusal :=
  match s.standing with
  | some stop => stop
  | none =>
    match s.fetch with
    | .error why => .refused why
    | .ok i => exec i s

/-- The state with the given table word as the one `step` issues next. The core fetches nothing
(R36, R67): its position selects the operation, so the machine is placed where the decode table
schedules it, and the word is the head of a trace (log entries 7 and 8). A number with a bit above the
five of the word is no micro-operation word (R96), and the reserved word 0 stands in for it (R88). -/
def State.withFetchWord (s : State) (nbits w : Nat) : State :=
  s.placedForWord (if w % 2 ^ nbits < 32 then BitVec.ofNat 5 (w % 2 ^ nbits) else 0#5)

end Sys2Proof.Machine
end

