-- ==== Sys2Proof/Machine/Formats.lean ====
section
/-! DEFINITION. The data formats on the queues as words (R81): the RGB beat (R82) and the status word
(R85). -/

namespace Sys2Proof.Machine

/-- The 24-bit beat: R in bits 7:0, G in bits 15:8, B in bits 23:16 (R82). -/
def Rgb.pack (p : Rgb) : BitVec 24 :=
  (p.b ++ p.g ++ p.r : BitVec (8 + 8 + 8))

/-- The channels of a 24-bit beat; every value is a legal beat (R82). -/
def Rgb.unpack (v : BitVec 24) : Rgb :=
  ⟨v.extractLsb' 0 8, v.extractLsb' 8 8, v.extractLsb' 16 8⟩

/-- The 2-bit status word (R85). -/
def FrameStatus.word (f : FrameStatus) : BitVec 2 :=
  match f with
  | .ok => 0#2
  | .frameShort => 1#2
  | .frameLong => 2#2

/-- Reading a status word; value 3 is reserved (R85). -/
def FrameStatus.ofWord (v : BitVec 2) : Option FrameStatus :=
  match v.toNat with
  | 0 => some .ok
  | 1 => some .frameShort
  | 2 => some .frameLong
  | _ => none

end Sys2Proof.Machine
end

