-- ==== Sys2Proof/Machine/FrameFunction.lean ====
section
/-! DEFINITION. The closed forms of the spec that statements about a whole frame are made with: the
clamped row index and the gray image (R18), the line-buffer column at emission (R131), the window
at emission (R132) and the frame function (R202). The machine does not use them. -/

namespace Sys2Proof.Machine

/-- `cv(y) = clamp(y, 0, H−1)` (R18). -/
def cv (c : Config) (y : Int) : Nat :=
  (min (max y 0) ((c.h : Int) - 1)).toNat

/-- The gray image `g(y, x)` of a frame of `NPIX` beats in raster order (R18, R202). Outside the frame,
where no rule reads it, it is the gray of black. -/
def grayImage (c : Config) (frame : List Rgb) (y x : Nat) : Byte :=
  grayOf (frame.getD (y * c.w + x) ⟨0, 0, 0⟩)

/-- The vertical run `g(cv(y0), x) .. g(cv(y0+4), x)`, oldest depth first (R131). -/
def verticalRun (c : Config) (g : Nat → Nat → Byte) (y0 : Int) (x : Nat) : Cells :=
  Five.ofFn fun d => g (cv c (y0 + (d.val : Int))) x

/-- The window after `m` insertions of the frame, cell `(r, k)` (R132, with `m = n + 1` at the EDGE of
emission `n`): a cell of the column inserted `4 − k` insertions ago, or of Win0. -/
def windowCellAfter (c : Config) (g : Nat → Nat → Byte) (win0 : Window) (m : Nat) (r k : Fin 5) : Byte :=
  if 5 ≤ m + k.val then
    let e := m + k.val - 5
    g (cv c (((e / c.w : Nat) : Int) - 1 + (r.val : Int))) (e % c.w)
  else (win0.get r).get (Fin.ofNat 5 (m + k.val))

/-- The window after `m` insertions of the frame (R132). -/
def windowAfter (c : Config) (g : Nat → Nat → Byte) (win0 : Window) (m : Nat) : Window :=
  Five.ofFn fun r => Five.ofFn fun k => windowCellAfter c g win0 m r k

/-- The frame function's beat `B_n = EXPAND(EDGE(Wn))` (R202). -/
def frameBeat (c : Config) (g : Nat → Nat → Byte) (win0 : Window) (n : Nat) : Rgb :=
  expandOf (edgeOf c (windowAfter c g win0 (n + 1)))

/-- The beats of a whole frame, `B_0 .. B_{NPIX−1}` (R202). -/
def frameBeats (c : Config) (frame : List Rgb) (win0 : Window) : List Rgb :=
  (List.range c.npix).map fun n => frameBeat c (grayImage c frame) win0 n

/-- A well-formed frame as the host delivers it: exactly `NPIX` beats, then the marker (R183). -/
def frameItems (frame : List Rgb) : List InItem :=
  frame.map InItem.beat ++ [.boundary]

end Sys2Proof.Machine
end

