-- ==== Sys2Proof/Machine/HostMoves.lean ====
section
/-! DEFINITION. What the outside world can do to the core, between any two of its steps: the host's moves
on the queues (R32, R252), a reset (R250), and a run in which core and host take turns (R69). -/

namespace Sys2Proof.Machine

/-- A move of the host. There is none that changes the configuration, the order of the queues, or
anything inside the core (R252, R261). DESIGN CHOICE (log entry 28): `deliver` lets a host end a frame after
any number of beats, against R252's own words, since R222 and R223 say what the core does then. -/
inductive HostMove where
  /-- Append an item to the input queue (R32), in any order of beats and boundaries (log entry 28). -/
  | deliver (item : InItem)
  /-- Remove the oldest beat of the output queue (R32, R253). -/
  | takeOutput
  /-- Remove the oldest word of the status queue (R32, R253). -/
  | takeStatus
  /-- Reset the core, at any time; a frame in progress is abandoned with no status word (R250). -/
  | reset
  deriving DecidableEq, Repr

/-- The state after a host move. Removing from an empty queue changes nothing. -/
def State.hostMove (s : State) (m : HostMove) : State :=
  match m with
  | .deliver item => { s with input := s.input ++ [item] }
  | .takeOutput => { s with output := s.output.tail }
  | .takeStatus => { s with status := s.status.tail }
  | .reset => State.afterReset s.cfg s.draws

/-- Who moves next in an interleaving of core and host (R69, R253). -/
inductive Turn where
  | core
  | host (m : HostMove)
  deriving DecidableEq, Repr

/-- One turn, the outcome of a core step recorded in the model's bookkeeping (R33). DESIGN CHOICE (log
entry 10): the core turns of a model that has stopped leave its log as it is. -/
def State.turn (s : State) (t : Turn) : State :=
  match t with
  | .core => s.settle (step s)
  | .host m => s.hostMove m

/-- A run: the turns in order. -/
def State.turns (s : State) (ts : List Turn) : State :=
  ts.foldl State.turn s

end Sys2Proof.Machine
end

