-- ==== Sys2Proof/Machine/Platform.lean ====
section
/-! DEFINITION. Several engine instances on one platform: `N_ENGINES ≥ 1` of them, each with all the
state of R20 and its own queues, sharing nothing (R38, R64, R236). -/

namespace Sys2Proof.Machine

/-- The engines of a platform. They have no identifiers of their own (R236); the list index is the
model's way to say which one takes a turn (DESIGN CHOICE, log entry 17). -/
structure Platform where
  engines : List State
  deriving DecidableEq, Repr

/-- `N_ENGINES` (R11). -/
def Platform.count (p : Platform) : Nat :=
  p.engines.length

/-- `N_ENGINES ≥ 1` (R11, R236), and each engine has a source of draws of its own, so that no two share
their free values. DESIGN CHOICE (log entry 25): the spec leaves open how the draws of different engines
relate. -/
def Platform.wf (p : Platform) : Bool :=
  decide (1 ≤ p.count) && decide (p.engines.map fun s => s.cfg.source).Nodup

/-- The platform of the given builds, each engine at its own reset (R34, R236). -/
def Platform.afterReset (builds : List Config) : Platform :=
  { engines := builds.map fun c => State.afterReset c 0 }

/-- One engine takes a turn of its own; there are no messages between engines (R236). -/
def Platform.turnOf (p : Platform) (i : Nat) (t : Turn) : Platform :=
  { engines := p.engines.modify i fun s => s.turn t }

end Sys2Proof.Machine
end

