-- ==== Sys2Proof/Safety.lean ====
section
/-! DEFINITION. What claims are stated with: a clean state (R33), the invariants of the machine, the
hold (R253), agreement of two states off the margin columns (R134), and the progress of a frame against
the closed forms (R131, R132, R202). -/

namespace Sys2Proof.Machine

/-- No fault recorded and no refusal: the premise of every claim (R33). -/
abbrev State.Clean (s : State) : Prop :=
  s.faultLog = [] ∧ s.refusal = none

/-- Nothing stops the machine before its next micro-operation: no sticky stop and a well-formed
configuration (R33, R226, R251). A FrameError in the log stops nothing (R227). -/
abbrev State.Ready (s : State) : Prop :=
  s.refusal = none ∧ (∀ f ∈ s.faultLog, f.stops = false) ∧ s.cfg.wf = true

/-- The queues never hold the core: the spec's unbounded queues (R32). -/
abbrev State.Unbounded (s : State) : Prop :=
  s.cfg.outCap = none ∧ s.cfg.statusCap = none

/-- The micro-operations of the current position that have run (R36). In FINISH they all have. -/
def State.performed (s : State) : List Instr :=
  match s.phase with
  | .idle => []
  | .scan => (s.cfg.opsAt s.row s.col).take s.upc
  | .finish => s.cfg.opsAt s.row s.col

/-- THE STRUCTURAL INVARIANT: the line buffer has its `LBW` columns (R24); the position is in range
(R22) and, in SCAN, its sequence is not used up (R36); in FINISH it is the last position (R129); and a
latch holds a value exactly from the micro-operation that writes it to the end of the position (R29). -/
abbrev State.Inv (s : State) : Prop :=
  s.lb.length = s.cfg.lbw ∧
  (s.cfg.geometryOk = true → s.row < s.cfg.rows ∧ s.col < s.cfg.w) ∧
  (s.phase = .scan → s.upc < (s.cfg.opsAt s.row s.col).length) ∧
  (s.phase = .finish → s.row + 1 = s.cfg.rows ∧ s.col + 1 = s.cfg.w) ∧
  (s.phase ≠ .scan → s.upc = 0) ∧
  (s.discarding = true → s.phase = .finish) ∧
  (s.pIn.isSome = true ↔ s.phase = .scan ∧ Instr.adaptIn ∈ s.performed) ∧
  (s.gIn.isSome = true ↔ s.phase = .scan ∧ Instr.gray ∈ s.performed) ∧
  (s.eOut.isSome = true ↔ s.phase = .scan ∧ Instr.edge ∈ s.performed) ∧
  (s.pOut.isSome = true ↔ s.phase = .scan ∧ Instr.expand ∈ s.performed)

/-- The black and the white output beat (R84). -/
abbrev Rgb.IsBinary (p : Rgb) : Prop :=
  p = ⟨0, 0, 0⟩ ∨ p = ⟨255, 255, 255⟩

/-- THE BINARY INVARIANT: every edge value and every output beat is one of two (R84, R162). -/
abbrev State.Binary (s : State) : Prop :=
  (∀ p ∈ s.output, p.IsBinary) ∧
  (∀ e ∈ s.emissions, e.2 = 0 ∨ e.2 = 255) ∧
  (∀ e ∈ s.eOut.toList, e = 0 ∨ e = 255) ∧
  (∀ p ∈ s.pOut.toList, p.IsBinary)

/-- Two states that differ at most in the margin columns of the line buffer (R17, R134). -/
def State.AgreeOffMargins (s t : State) : Prop :=
  { s with lb := [] } = { t with lb := [] } ∧ s.lb.length = t.lb.length ∧
  ∀ c d, Config.OFFSET ≤ c → c < s.cfg.w + Config.OFFSET → s.lb.cell c d = t.lb.cell c d

/-- Two outcomes of the same kind, for the same reason or in such states. -/
def Result.AgreeOffMargins (a b : Result) : Prop :=
  match a, b with
  | .next s, .next t => s.AgreeOffMargins t
  | .fault f, .fault f' => f = f'
  | .refused r, .refused r' => r = r'
  | _, _ => False

/-- A line-buffer column whose newest row, `y`, has been copied down once by TOP_FIXUP or ROW_SHIFT
(R131's proof sketch): rows `y−3 .. y`, and `y` again, each clamped. -/
def agedRun (c : Config) (g : Nat → Nat → Byte) (y : Int) (x : Nat) : Cells :=
  ⟨g (cv c (y - 3)) x, g (cv c (y - 2)) x, g (cv c (y - 1)) x, g (cv c y) x, g (cv c y) x⟩

/-- The frame's pixels consumed so far (R39, R181). -/
def State.consumed (s : State) : Nat :=
  s.nIn + (if Instr.adaptIn ∈ s.performed then 1 else 0)

/-- The WIN_INSERTs of the frame so far (R39, R125). -/
def State.inserted (s : State) : Nat :=
  s.nOut + (if Instr.winInsert ∈ s.performed then 1 else 0)

/-- The emissions of the frame so far (R39, R126). -/
def State.emitted (s : State) : Nat :=
  s.nOut + (if Instr.emit ∈ s.performed then 1 else 0)

/-- The beats of the frame pushed so far (R39, R182). -/
def State.produced (s : State) : Nat :=
  s.nOut + (if Instr.adaptOut ∈ s.performed then 1 else 0)

/-- The fix-up or shift of this position has run (R127, R128). -/
def State.shifted (s : State) : Prop :=
  Instr.topFixup ∈ s.performed ∨ Instr.rowShift ∈ s.performed

/-- What the interior column of frame column `x` holds while the frame of gray image `g` is scanned
(R25, R131): processed at this scan row, under way at this position, or not reached yet. Nothing is
said of a column before its first ingest (R28). -/
def State.ColumnTracks (s : State) (g : Nat → Nat → Byte) (x : Nat) : Prop :=
  ∃ cells, s.lb[x + Config.OFFSET]? = some cells ∧
    ((x < s.col ∨ x = s.col ∧ s.shifted) → cells = agedRun s.cfg g s.row x) ∧
    (x = s.col → s.cfg.ingestAt x ∈ s.performed → ¬ s.shifted →
      cells.a4 = g s.row x ∧ (0 < s.row → cells = verticalRun s.cfg g ((s.row : Int) - 4) x)) ∧
    ((s.col < x ∨ x = s.col ∧ s.cfg.ingestAt x ∉ s.performed ∧ ¬ s.shifted) → 0 < s.row →
      cells = agedRun s.cfg g ((s.row : Int) - 1) x)

/-- THE FRAME INVARIANT: the machine is in the middle of the well-formed frame `frame`, begun with the
window `win0` and with the given output and emissions already there; `rest` is what the host appended
after the frame's boundary. It says what has been consumed, what each interior line-buffer column, the
window and each latch hold, and what has been emitted and pushed (R39, R131, R132, R136, R202). -/
structure State.FrameTracks (s : State) (frame : List Rgb) (win0 : Window) (rest : List InItem)
    (out0 : List Rgb) (em0 : List (Nat × Byte)) : Prop where
  frame_length : frame.length = s.cfg.npix
  running : s.phase ≠ .idle
  no_discard : s.discarding = false
  free_running : s.trace = []
  input_left : s.input = (frame.drop s.consumed).map InItem.beat ++ .boundary :: rest
  columns : ∀ x, x < s.cfg.w → s.ColumnTracks (grayImage s.cfg frame) x
  window : s.win = windowAfter s.cfg (grayImage s.cfg frame) win0 s.inserted
  latch_p : ∀ p, s.pIn = some p → frame[s.nIn]? = some p
  latch_g : ∀ v, s.gIn = some v → v = grayImage s.cfg frame s.row s.col
  latch_e : ∀ v, s.eOut = some v →
    v = edgeOf s.cfg (windowAfter s.cfg (grayImage s.cfg frame) win0 (s.nOut + 1))
  latch_o : ∀ p, s.pOut = some p → p = frameBeat s.cfg (grayImage s.cfg frame) win0 s.nOut
  emissions_so_far : s.emissions = em0 ++ (List.range s.emitted).map fun n =>
    (n, edgeOf s.cfg (windowAfter s.cfg (grayImage s.cfg frame) win0 (n + 1)))
  output_so_far : s.output = out0 ++ (List.range s.produced).map fun n =>
    frameBeat s.cfg (grayImage s.cfg frame) win0 n

end Sys2Proof.Machine
end

