-- ==== Sys2Proof/Certificates/Slice0/Obligations.lean ====
section
/-! DEFINITION. The statements for the provers, each from a numbered rule of spec/ (or marked as derived
from one). `index` in a guard is a micro-operation's place in its position's sequence. -/

open Sys2Proof Sys2Proof.Machine

/- ---------------------------------------------------------------- encoding -/

/-- R87: the sixteen codes, each matched on all five bits. -/
def Obligations.DecodeReadsTheCodeTable : Prop :=
  decode 0b00001#5 = some .frameStart ∧ decode 0b00010#5 = some .adaptIn ∧
  decode 0b00011#5 = some .gray ∧ decode 0b00100#5 = some .ingestM ∧
  decode 0b00101#5 = some .ingestL ∧ decode 0b00110#5 = some .ingestR ∧
  decode 0b00111#5 = some .ingestLR ∧ decode 0b01000#5 = some .winInsert ∧
  decode 0b01001#5 = some .edge ∧ decode 0b01010#5 = some .emit ∧
  decode 0b01011#5 = some .expand ∧ decode 0b01100#5 = some .adaptOut ∧
  decode 0b01101#5 = some .topFixup ∧ decode 0b01110#5 = some .rowShift ∧
  decode 0b01111#5 = some .advance ∧ decode 0b10000#5 = some .frameEnd

/-- R88: `0x00` and `0x11`–`0x1F`, and no other word, spell no operation, and a trace that comes to one
is refused. -/
def Obligations.ReservedWordsAreRefused : Prop :=
  (∀ w : OpWord, decode w = none ↔ (w.toNat = 0 ∨ 0x11 ≤ w.toNat)) ∧
  (∀ (s : State) (w : OpWord) (rest : List OpWord), s.Ready → s.trace = w :: rest →
    (w.toNat = 0 ∨ 0x11 ≤ w.toNat) → step s = .refused .reservedOp)

/-- Decode of encode, for every well-formed micro-operation, and encode of decode, for every word that
spells one (R86, R87). -/
def Obligations.DecodeAndEncodeAgree : Prop :=
  (∀ i : Instr, i.wf = true → decode (encode i) = some i) ∧
  (∀ (w : OpWord) (i : Instr), decode w = some i → encode i = w)

/-- The binary form of a trace reads back as the same micro-operations (R94), the frame program's
among them; and a word list that reads back is the binary form of what it reads as. Each mnemonic reads
back as its micro-operation, and no other text does. -/
def Obligations.TraceFormReadsBack : Prop :=
  (∀ is : List Instr, decodeTrace (encodeTrace is) = some is) ∧
  (∀ (ws : List OpWord) (is : List Instr), decodeTrace ws = some is → encodeTrace is = ws) ∧
  (∀ (name : List Char) (i : Instr), Instr.ofMnemonic name = some i ↔ name = i.mnemonic.toList)

/-- R82, R85: the beat's bits 7:0, 15:8 and 23:16 are R, G and B, and every 24-bit value is a beat; the
status words are 0, 1 and 2, and 3 is reserved: no status has it. -/
def Obligations.BeatAndStatusFormats : Prop :=
  (∀ p : Rgb, p.pack.toNat = p.r.toNat + 256 * p.g.toNat + 65536 * p.b.toNat) ∧
  (∀ p : Rgb, Rgb.unpack p.pack = p) ∧ (∀ v : BitVec 24, (Rgb.unpack v).pack = v) ∧
  FrameStatus.ok.word = 0#2 ∧ FrameStatus.frameShort.word = 1#2 ∧ FrameStatus.frameLong.word = 2#2 ∧
  (∀ f : FrameStatus, FrameStatus.ofWord f.word = some f) ∧ FrameStatus.ofWord 3#2 = none

/- ------------------------------------------------------------- sequencing -/

/-- R90, R91: the position decode table, scan row by scan row, and the ingest variant of a column. -/
def Obligations.PositionDecodeTable : Prop :=
  (∀ (c : Config) (row col : Nat),
    (row = 0 → row < c.h →
      c.opsAt row col = [.adaptIn, .gray, c.ingestAt col, .topFixup, .advance]) ∧
    (0 < row → row ≤ 2 → row < c.h →
      c.opsAt row col = [.adaptIn, .gray, c.ingestAt col, .rowShift, .advance]) ∧
    (0 < row → row ≤ 2 → c.h ≤ row → c.opsAt row col = [.rowShift, .advance]) ∧
    (2 < row → row < c.h →
      c.opsAt row col = [.adaptIn, .gray, c.ingestAt col, .winInsert, .edge, .emit, .expand, .adaptOut,
        .rowShift, .advance]) ∧
    (2 < row → c.h ≤ row →
      c.opsAt row col = [.winInsert, .edge, .emit, .expand, .adaptOut, .rowShift, .advance])) ∧
  (∀ (c : Config) (col : Nat), col < c.w →
    (c.ingestAt col = .ingestLR ↔ c.w = 1) ∧
    (c.ingestAt col = .ingestL ↔ (col = 0 ∧ 2 ≤ c.w)) ∧
    (c.ingestAt col = .ingestR ↔ (col = c.w - 1 ∧ 2 ≤ c.w)) ∧
    (c.ingestAt col = .ingestM ↔ (0 < col ∧ col < c.w - 1)))

/-- R98: how often each operation stands in a complete frame's program. -/
def Obligations.OperationCountsPerFrame : Prop :=
  ∀ c : Config, 1 ≤ c.w → 1 ≤ c.h →
    let n := fun i : Instr => c.frameProgram.count i
    n .frameStart = 1 ∧ n .frameEnd = 1 ∧
    n .adaptIn = c.w * c.h ∧ n .gray = c.w * c.h ∧
    n .ingestM + n .ingestL + n .ingestR + n .ingestLR = c.w * c.h ∧
    n .ingestL = (if 2 ≤ c.w then c.h else 0) ∧ n .ingestR = (if 2 ≤ c.w then c.h else 0) ∧
    n .ingestLR = (if c.w = 1 then c.h else 0) ∧
    n .ingestM = (if 2 ≤ c.w then c.h * (c.w - 2) else 0) ∧
    n .winInsert = c.w * c.h ∧ n .edge = c.w * c.h ∧ n .emit = c.w * c.h ∧
    n .expand = c.w * c.h ∧ n .adaptOut = c.w * c.h ∧
    n .topFixup = c.w ∧ n .rowShift = (c.h + 2) * c.w ∧ n .advance = (c.h + 3) * c.w

/-- A step runs the instruction that is issued: a trace's word, or without a trace the micro-operation
the core's own sequence has due. That State holds a trace, that its head is issued while there is one, and
the due operation otherwise, is the MODEL's choice (log entry 7). -/
def Obligations.StepRunsTheIssuedInstruction : Prop :=
  (∀ (s : State) (w : OpWord) (rest : List OpWord) (i : Instr), s.Ready → s.trace = w :: rest →
    decode w = some i → step s = exec i s) ∧
  (∀ (s : State) (i : Instr), s.Ready → s.trace = [] → s.scheduled = some i → step s = exec i s)

/-- R93: whatever the decode table does not schedule next is refused, in `exec` and so in a step of a
trace. -/
def Obligations.OutOfSequenceIsRefused : Prop :=
  (∀ (i : Instr) (s : State), s.scheduled ≠ some i → exec i s = .refused .outOfSequence) ∧
  (∀ (s : State) (w : OpWord) (rest : List OpWord) (i : Instr), s.Ready → s.trace = w :: rest →
    decode w = some i → s.scheduled ≠ some i → step s = .refused .outOfSequence)

/- ----------------------------------------------- one statement per operation -/

/-- R110, GRAY: code, guard, effect (and nothing else changes), unset latch. -/
def Obligations.GraySumsChannelEighths : Prop :=
  encode .gray = 0x03#5 ∧
  (∀ (c : Config) (row col index : Nat), col < c.w →
    ((c.opsAt row col)[index]? = some .gray ↔ row < c.h ∧ index = 1)) ∧
  (∀ (s : State) (p : Rgb), s.scheduled = some .gray → s.pIn = some p →
    exec .gray s = .next { s with
      gIn := some (BitVec.ofNat 8 (p.r.toNat / 8 + p.g.toNat / 8 + p.b.toNat / 8))
      upc := s.upc + 1, trace := s.trace.tail }) ∧
  (∀ s : State, s.scheduled = some .gray → s.pIn = none →
    exec .gray s = .fault (.latchUnset .gray s.row s.col))

/-- R111: the properties of GRAY's result. -/
def Obligations.GrayResultProperties : Prop :=
  (∀ p : Rgb, (grayOf p).toNat = p.r.toNat / 8 + p.g.toNat / 8 + p.b.toNat / 8) ∧
  (∀ p : Rgb, (grayOf p).toNat ≤ 93) ∧
  (∀ n : Nat, n ≤ 93 → ∃ p : Rgb, (grayOf p).toNat = n) ∧
  (∀ r g b : Byte, grayOf ⟨r, g, b⟩ = grayOf ⟨g, r, b⟩ ∧ grayOf ⟨r, g, b⟩ = grayOf ⟨r, b, g⟩) ∧
  (∀ r g b m : Byte, m.toNat < 8 →
    grayOf ⟨(r &&& 0xF8) ||| m, g, b⟩ = grayOf ⟨r, g, b⟩) ∧
  (∀ r r' g b : Byte, r.toNat ≤ r'.toNat → (grayOf ⟨r, g, b⟩).toNat ≤ (grayOf ⟨r', g, b⟩).toNat)

/-- R121, INGEST_M: one cell of the line buffer changes, and nothing else of the state. -/
def Obligations.IngestMStoresAnInteriorPixel : Prop :=
  encode .ingestM = 0x04#5 ∧
  (∀ (c : Config) (row col index : Nat), col < c.w →
    ((c.opsAt row col)[index]? = some .ingestM ↔
      row < c.h ∧ (0 < col ∧ col < c.w - 1) ∧ index = 2)) ∧
  (∀ (s : State) (g : Byte), s.scheduled = some .ingestM → s.lb.length = s.cfg.w + 4 →
    s.col < s.cfg.w → s.gIn = some g →
    ∃ lb : LineBuffer,
      exec .ingestM s = .next { s with lb := lb, upc := s.upc + 1, trace := s.trace.tail } ∧
      lb.length = s.lb.length ∧
      ∀ c d, lb.cell c d = if c = s.col + 2 ∧ d = 4 then some g else s.lb.cell c d) ∧
  (∀ s : State, s.scheduled = some .ingestM → s.lb.length = s.cfg.w + 4 → s.col < s.cfg.w →
    s.gIn = none → exec .ingestM s = .fault (.latchUnset .ingestM s.row s.col))

/-- R122, INGEST_L: depth 4 of columns 0, 1 and 2, and nothing else of the state. -/
def Obligations.IngestLReplicatesIntoTheLeftMargin : Prop :=
  encode .ingestL = 0x05#5 ∧
  (∀ (c : Config) (row col index : Nat), col < c.w →
    ((c.opsAt row col)[index]? = some .ingestL ↔ row < c.h ∧ (col = 0 ∧ 2 ≤ c.w) ∧ index = 2)) ∧
  (∀ (s : State) (g : Byte), s.scheduled = some .ingestL → s.lb.length = s.cfg.w + 4 →
    s.gIn = some g →
    ∃ lb : LineBuffer,
      exec .ingestL s = .next { s with lb := lb, upc := s.upc + 1, trace := s.trace.tail } ∧
      lb.length = s.lb.length ∧
      ∀ c d, lb.cell c d = if c ≤ 2 ∧ d = 4 then some g else s.lb.cell c d) ∧
  (∀ s : State, s.scheduled = some .ingestL → s.lb.length = s.cfg.w + 4 → s.gIn = none →
    exec .ingestL s = .fault (.latchUnset .ingestL s.row s.col))

/-- R123, INGEST_R: depth 4 of columns W+1, W+2 and W+3, and nothing else of the state. -/
def Obligations.IngestRReplicatesIntoTheRightMargin : Prop :=
  encode .ingestR = 0x06#5 ∧
  (∀ (c : Config) (row col index : Nat), col < c.w →
    ((c.opsAt row col)[index]? = some .ingestR ↔
      row < c.h ∧ (col = c.w - 1 ∧ 2 ≤ c.w) ∧ index = 2)) ∧
  (∀ (s : State) (g : Byte), s.scheduled = some .ingestR → s.lb.length = s.cfg.w + 4 →
    s.gIn = some g →
    ∃ lb : LineBuffer,
      exec .ingestR s = .next { s with lb := lb, upc := s.upc + 1, trace := s.trace.tail } ∧
      lb.length = s.lb.length ∧
      ∀ c d, lb.cell c d =
        if s.cfg.w + 1 ≤ c ∧ c < s.cfg.w + 4 ∧ d = 4 then some g else s.lb.cell c d) ∧
  (∀ s : State, s.scheduled = some .ingestR → s.lb.length = s.cfg.w + 4 → s.gIn = none →
    exec .ingestR s = .fault (.latchUnset .ingestR s.row s.col))

/-- R124, INGEST_LR: depth 4 of all five columns of a one-pixel-wide frame, and nothing else. -/
def Obligations.IngestLRReplicatesBothWays : Prop :=
  encode .ingestLR = 0x07#5 ∧
  (∀ (c : Config) (row col index : Nat), col < c.w →
    ((c.opsAt row col)[index]? = some .ingestLR ↔ row < c.h ∧ c.w = 1 ∧ index = 2)) ∧
  (∀ (s : State) (g : Byte), s.scheduled = some .ingestLR → 1 ≤ s.cfg.w →
    s.lb.length = s.cfg.w + 4 → s.gIn = some g →
    ∃ lb : LineBuffer,
      exec .ingestLR s = .next { s with lb := lb, upc := s.upc + 1, trace := s.trace.tail } ∧
      lb.length = s.lb.length ∧
      ∀ c d, lb.cell c d = if c < 5 ∧ d = 4 then some g else s.lb.cell c d) ∧
  (∀ s : State, s.scheduled = some .ingestLR → 1 ≤ s.cfg.w → s.lb.length = s.cfg.w + 4 →
    s.gIn = none → exec .ingestLR s = .fault (.latchUnset .ingestLR s.row s.col))

/-- R125, WIN_INSERT: the window shifted left by one column, line-buffer column `col + 2` inserted, and
nothing else of the state. -/
def Obligations.WinInsertShiftsAndInserts : Prop :=
  encode .winInsert = 0x08#5 ∧
  (∀ (c : Config) (row col index : Nat), col < c.w →
    ((c.opsAt row col)[index]? = some .winInsert ↔
      2 < row ∧ index = (if row < c.h then 3 else 0))) ∧
  (∀ s : State, s.scheduled = some .winInsert → s.lb.length = s.cfg.w + 4 → s.col < s.cfg.w →
    ∃ win : Window,
      exec .winInsert s = .next { s with win := win, upc := s.upc + 1, trace := s.trace.tail } ∧
      (∀ r : Fin 5, (win.get r).get 0 = (s.win.get r).get 1 ∧ (win.get r).get 1 = (s.win.get r).get 2 ∧
        (win.get r).get 2 = (s.win.get r).get 3 ∧ (win.get r).get 3 = (s.win.get r).get 4) ∧
      (∀ r : Fin 5, some ((win.get r).get 4) = s.lb.cell (s.col + 2) r))

/-- R160, EDGE: `e_out` is 255 exactly when `|Gx| + |Gy| > 200`, the sums taken cell by cell over
unbounded integers, and nothing else of the state changes. -/
def Obligations.EdgeThresholdsTheGradient : Prop :=
  encode .edge = 0x09#5 ∧
  (∀ (c : Config) (row col index : Nat), col < c.w →
    ((c.opsAt row col)[index]? = some .edge ↔ 2 < row ∧ index = (if row < c.h then 4 else 1))) ∧
  (∀ s : State, s.scheduled = some .edge →
    exec .edge s = .next { s with
      eOut := some (
        if 200 <
          (∑ i : Fin 5, ∑ j : Fin 5,
            (((s.win.get i).get j).toNat : Int) * (s.cfg.kx.get i).get j).natAbs +
          (∑ i : Fin 5, ∑ j : Fin 5,
            (((s.win.get i).get j).toNat : Int) * (s.cfg.ky.get i).get j).natAbs
        then 255 else 0)
      upc := s.upc + 1, trace := s.trace.tail })

/-- R126, EMIT: the event `Emit((row − 3)·W + col, e_out)` is recorded, `e_out` is passed on, and nothing
else of the state changes; the index names the output pixel `(row − 3, col)`. -/
def Obligations.EmitRecordsTheEmissionIndex : Prop :=
  encode .emit = 0x0A#5 ∧
  (∀ (c : Config) (row col index : Nat), col < c.w →
    ((c.opsAt row col)[index]? = some .emit ↔ 2 < row ∧ index = (if row < c.h then 5 else 2))) ∧
  (∀ (s : State) (e : Byte), s.scheduled = some .emit → s.eOut = some e →
    exec .emit s = .next { s with
      emissions := s.emissions ++ [((s.row - 3) * s.cfg.w + s.col, e)]
      upc := s.upc + 1, trace := s.trace.tail }) ∧
  (∀ s : State, s.scheduled = some .emit → s.eOut = none →
    exec .emit s = .fault (.latchUnset .emit s.row s.col)) ∧
  (∀ (c : Config) (row col : Nat), 2 < row → row < c.h + 3 → col < c.w →
    (row - 3) * c.w + col < c.w * c.h ∧
    ((row - 3) * c.w + col) / c.w = row - 3 ∧ ((row - 3) * c.w + col) % c.w = col)

/-- R127, TOP_FIXUP: depths 0..3 of column `col + 2` take its depth 4, and nothing else changes. -/
def Obligations.TopFixupSeedsTheOlderDepths : Prop :=
  encode .topFixup = 0x0D#5 ∧
  (∀ (c : Config) (row col index : Nat), col < c.w →
    ((c.opsAt row col)[index]? = some .topFixup ↔ row = 0 ∧ index = (if row < c.h then 3 else 0))) ∧
  (∀ s : State, s.scheduled = some .topFixup → s.lb.length = s.cfg.w + 4 → s.col < s.cfg.w →
    ∃ lb : LineBuffer,
      exec .topFixup s = .next { s with lb := lb, upc := s.upc + 1, trace := s.trace.tail } ∧
      lb.length = s.lb.length ∧
      ∀ c d, lb.cell c d = if c = s.col + 2 then s.lb.cell c 4 else s.lb.cell c d)

/-- R128, ROW_SHIFT: depth `d` of column `col + 2` takes depth `d + 1` for `d = 0..3`, depth 4 stays, and
nothing else changes. -/
def Obligations.RowShiftAgesOneColumn : Prop :=
  encode .rowShift = 0x0E#5 ∧
  (∀ (c : Config) (row col index : Nat), col < c.w →
    ((c.opsAt row col)[index]? = some .rowShift ↔
      0 < row ∧ index = (if row < c.h then 3 else 0) + (if 2 < row then 5 else 0))) ∧
  (∀ s : State, s.scheduled = some .rowShift → s.lb.length = s.cfg.w + 4 → s.col < s.cfg.w →
    ∃ lb : LineBuffer,
      exec .rowShift s = .next { s with lb := lb, upc := s.upc + 1, trace := s.trace.tail } ∧
      lb.length = s.lb.length ∧
      (∀ c d, c ≠ s.col + 2 → lb.cell c d = s.lb.cell c d) ∧
      lb.cell (s.col + 2) 0 = s.lb.cell (s.col + 2) 1 ∧ lb.cell (s.col + 2) 1 = s.lb.cell (s.col + 2) 2 ∧
      lb.cell (s.col + 2) 2 = s.lb.cell (s.col + 2) 3 ∧ lb.cell (s.col + 2) 3 = s.lb.cell (s.col + 2) 4 ∧
      lb.cell (s.col + 2) 4 = s.lb.cell (s.col + 2) 4)

/-- R129, ADVANCE: the latches are unset and the position moves on in raster order, or the phase becomes
FINISH after the last position; nothing else changes but the index, which starts afresh (R36). -/
def Obligations.AdvanceMovesInRasterOrder : Prop :=
  encode .advance = 0x0F#5 ∧
  (∀ (c : Config) (row col index : Nat), col < c.w →
    ((c.opsAt row col)[index]? = some .advance ↔
      index = (if row < c.h then 3 else 0) + (if 2 < row then 5 else 0) + 1)) ∧
  (∀ s : State, s.scheduled = some .advance →
    exec .advance s = .next (
      let t := { s with pIn := none, gIn := none, eOut := none, pOut := none, upc := 0, trace := s.trace.tail }
      if s.col + 1 < s.cfg.w then { t with col := s.col + 1 }
      else if s.row + 1 < s.cfg.h + 3 then { t with row := s.row + 1, col := 0 }
      else { t with phase := .finish }))

/-- R180, EXPAND: `p_out` takes `e_out` three times, and nothing else of the state changes. -/
def Obligations.ExpandReplicatesTheEdgeValue : Prop :=
  encode .expand = 0x0B#5 ∧
  (∀ (c : Config) (row col index : Nat), col < c.w →
    ((c.opsAt row col)[index]? = some .expand ↔ 2 < row ∧ index = (if row < c.h then 6 else 3))) ∧
  (∀ (s : State) (e : Byte), s.scheduled = some .expand → s.eOut = some e →
    exec .expand s = .next { s with
      pOut := some ⟨e, e, e⟩, upc := s.upc + 1, trace := s.trace.tail }) ∧
  (∀ s : State, s.scheduled = some .expand → s.eOut = none →
    exec .expand s = .fault (.latchUnset .expand s.row s.col))

/-- R181, ADAPT_IN: a beat goes into `p_in` unchanged; BOUNDARY raises FrameError(FRAME_SHORT, n_in), with
R224's effect for that cause; an empty queue holds. That a hold is a next state equal to the state, where
R181 says there is no step, is the MODEL's choice (log entry 6). The BOUNDARY clause is for a status queue
with room (any unbounded one); a full one is left to `OnlyTheListedOperationsHold`. -/
def Obligations.AdaptInTakesTheNextPixel : Prop :=
  encode .adaptIn = 0x02#5 ∧
  (∀ (c : Config) (row col index : Nat), col < c.w →
    ((c.opsAt row col)[index]? = some .adaptIn ↔ row < c.h ∧ index = 0)) ∧
  (∀ s : State, s.scheduled = some .adaptIn → s.input = [] → exec .adaptIn s = .next s) ∧
  (∀ (s : State) (p : Rgb) (rest : List InItem), s.scheduled = some .adaptIn →
    s.input = .beat p :: rest →
    exec .adaptIn s = .next { s with
      input := rest, pIn := some p, upc := s.upc + 1, trace := s.trace.tail }) ∧
  (∀ (s : State) (rest : List InItem), s.scheduled = some .adaptIn → s.statusFull = false →
    s.input = .boundary :: rest →
    exec .adaptIn s = .next { s with
      input := rest
      status := s.status ++ [.frameShort]
      pIn := none, gIn := none, eOut := none, pOut := none
      phase := .idle, discarding := false
      faultLog := s.faultLog ++ [.frameError .short (s.row * s.cfg.w + s.col)]
      trace := s.trace.tail })

/-- R182, ADAPT_OUT: `p_out` is appended to the output queue unchanged, and nothing else of the state
changes; a full queue of a bounded realisation holds. The capacity field and a hold as an equal next state
are the MODEL's choices (log entries 13 and 6). -/
def Obligations.AdaptOutPushesTheOutputBeat : Prop :=
  encode .adaptOut = 0x0C#5 ∧
  (∀ (c : Config) (row col index : Nat), col < c.w →
    ((c.opsAt row col)[index]? = some .adaptOut ↔ 2 < row ∧ index = (if row < c.h then 7 else 4))) ∧
  (∀ (s : State) (cap : Nat), s.scheduled = some .adaptOut → s.cfg.outCap = some cap →
    cap ≤ s.output.length → exec .adaptOut s = .next s) ∧
  (∀ (s : State) (p : Rgb), s.scheduled = some .adaptOut →
    (∀ cap, s.cfg.outCap = some cap → s.output.length < cap) → s.pOut = some p →
    exec .adaptOut s = .next { s with
      output := s.output ++ [p], upc := s.upc + 1, trace := s.trace.tail }) ∧
  (∀ s : State, s.scheduled = some .adaptOut →
    (∀ cap, s.cfg.outCap = some cap → s.output.length < cap) → s.pOut = none →
    exec .adaptOut s = .fault (.latchUnset .adaptOut s.row s.col))

/-- R200, FRAME_START: scheduled in IDLE and only there; SCAN at (0, 0), both arrays some arrays of their
shape (nothing more is said of a draw), the latches unset, and nothing else of the state changes but the
model's own count of draws. -/
def Obligations.FrameStartBeginsAFrame : Prop :=
  encode .frameStart = 0x01#5 ∧
  (∀ s : State, s.scheduled = some .frameStart ↔ s.phase = .idle) ∧
  (∀ s : State, s.phase = .idle →
    ∃ lb win n, exec .frameStart s = .next { s with
        phase := .scan, row := 0, col := 0, upc := 0
        lb := lb, win := win
        pIn := none, gIn := none, eOut := none, pOut := none
        draws := n, trace := s.trace.tail } ∧
      lb.length = s.cfg.w + 4)

/-- R201, FRAME_END: scheduled in FINISH and only there; BOUNDARY gives status OK and IDLE, and nothing
else changes; an empty queue holds; a pixel raises FrameError(FRAME_LONG, NPIX), whose outcome
`FrameLongDiscardsToTheBoundary` gives. That a hold is a next state equal to the state, where R201 says
there is no step, is the MODEL's choice (log entry 6), as is the bit `discarding` (log entry 12). -/
def Obligations.FrameEndReportsTheFrame : Prop :=
  encode .frameEnd = 0x10#5 ∧
  (∀ s : State, s.scheduled = some .frameEnd ↔ s.phase = .finish) ∧
  (∀ s : State, s.phase = .finish → s.input = [] → s.discarding = false →
    exec .frameEnd s = .next s) ∧
  (∀ (s : State) (rest : List InItem), s.phase = .finish → s.discarding = false →
    s.statusFull = false → s.input = .boundary :: rest →
    exec .frameEnd s = .next { s with
      input := rest, status := s.status ++ [.ok], phase := .idle, trace := s.trace.tail }) ∧
  (∀ (s : State) (p : Rgb) (rest : List InItem), s.phase = .finish → s.discarding = false →
    s.statusFull = false → s.input = .beat p :: rest →
    exec .frameEnd s = .next (({ s with input := rest }).takeFrameError .long (s.cfg.w * s.cfg.h)))

/-- R224 for FRAME_LONG: the status word is pushed, every beat up to and including the next BOUNDARY is
dropped, the latches are unset, the phase becomes IDLE and the log records the error; with no BOUNDARY
in the queue yet everything is dropped, the discard waits in FINISH, and it ends in the same way once
the BOUNDARY has been appended. Holding there, not leaving FINISH, is the MODEL's choice (log entry 12). -/
def Obligations.FrameLongDiscardsToTheBoundary : Prop :=
  (∀ (s : State) (p : Rgb) (ps : List Rgb) (rest : List InItem), s.phase = .finish →
    s.discarding = false → s.statusFull = false →
    s.input = .beat p :: ps.map InItem.beat ++ .boundary :: rest →
    exec .frameEnd s = .next { s with
      input := rest, status := s.status ++ [.frameLong]
      pIn := none, gIn := none, eOut := none, pOut := none, phase := .idle
      faultLog := s.faultLog ++ [.frameError .long (s.cfg.w * s.cfg.h)]
      trace := s.trace.tail }) ∧
  (∀ (s : State) (p : Rgb) (ps : List Rgb), s.phase = .finish → s.discarding = false →
    s.statusFull = false → s.input = .beat p :: ps.map InItem.beat →
    exec .frameEnd s = .next { s with
      input := [], status := s.status ++ [.frameLong], discarding := true }) ∧
  (∀ (s : State) (ps : List Rgb), s.phase = .finish → s.discarding = true →
    s.input = ps.map InItem.beat → exec .frameEnd s = .next { s with input := [] }) ∧
  (∀ (s : State) (ps : List Rgb) (rest : List InItem), s.phase = .finish → s.discarding = true →
    s.input = ps.map InItem.beat ++ .boundary :: rest →
    exec .frameEnd s = .next { s with
      input := rest, discarding := false
      pIn := none, gIn := none, eOut := none, pOut := none, phase := .idle
      faultLog := s.faultLog ++ [.frameError .long (s.cfg.w * s.cfg.h)]
      trace := s.trace.tail })

/- ------------------------------------------------------ the gradient kernel -/

/-- R164: on a configuration that meets the accumulator bound, the `ACC_W`-bit signed gradients and
their sum of absolute values are the mathematical ones, for every window. Outside that bound the
definitions wrap, which is the MODEL's choice (log entry 26) and which nothing here rests on. -/
def Obligations.AccumulatorNeverOverflows : Prop :=
  ∀ (c : Config) (w : Window), c.accumulatorOk = true →
    (gradientBits c.accW c.kx w).toInt = gradient c.kx w ∧
    (gradientBits c.accW c.ky w).toInt = gradient c.ky w ∧
    (magnitudeBits c.accW c w).toInt = (magnitude c w : Int)

/-- R10, R164, R251: a configuration that breaks the accumulator bound, or has `W = 0` or `H = 0`, is
refused as a whole, whatever is due. Refusing `ACC_W = 0` whatever the kernels and the reason badGeometry
are the MODEL's reading (log entry 3); that badGeometry is the reason given when the bound is broken too
is the MODEL's choice (log entry 24). -/
def Obligations.IllFormedConfigurationIsRefused : Prop :=
  (∀ s : State, s.Clean → s.cfg.geometryOk = true →
    (s.cfg.accW = 0 ∨ 2 ^ (s.cfg.accW - 1) ≤ 255 * max s.cfg.kx.absSum s.cfg.ky.absSum ∨
      2 ^ (s.cfg.accW - 1) ≤ 255 * (s.cfg.kx.absSum + s.cfg.ky.absSum)) →
    step s = .refused .accumulatorTooNarrow) ∧
  (∀ s : State, s.Clean → (s.cfg.w = 0 ∨ s.cfg.h = 0) → step s = .refused .badGeometry)

/-- R166: a flat window of `v` has magnitude `v·(|ΣKX| + |ΣKY|)`, so under `KernelZeroSum` it is no edge. -/
def Obligations.FlatWindowHasNoEdge : Prop :=
  ∀ (c : Config) (w : Window) (v : Byte), (∀ r k : Fin 5, (w.get r).get k = v) →
    magnitude c w = v.toNat * (c.kx.entrySum.natAbs + c.ky.entrySum.natAbs) ∧
    (c.kernelZeroSum = true → edgeOf c w = 0)

/-- R163: with odd kernel entries at the four window corners and even entries everywhere else, the
magnitude is even, so 201 never occurs. -/
def Obligations.OddCornerKernelsGiveEvenMagnitudes : Prop :=
  ∀ (c : Config) (w : Window),
    (∀ i j : Fin 5, ((c.kx.get i).get j % 2 = 1 ↔ (i = 0 ∨ i = 4) ∧ (j = 0 ∨ j = 4)) ∧
      ((c.ky.get i).get j % 2 = 1 ↔ (i = 0 ∨ i = 4) ∧ (j = 0 ∨ j = 4))) →
    magnitude c w % 2 = 0

/- ------------------------------------------------------- whole-machine rules -/

/-- R20, R22, R23, R26, R30, R31, R205: which operations write each field; every other one leaves it as
it was. The last clauses are about three fields that the MODEL adds: the draw count, the bit of a waiting
discard and the index within the position (log entries 4, 12 and 9). -/
def Obligations.OnlyTheNamedOperationsWriteEachField : Prop :=
  ∀ (i : Instr) (s t : State), exec i s = .next t →
    t.cfg = s.cfg ∧ t.refusal = s.refusal ∧ (t.trace = s.trace ∨ t.trace = s.trace.tail) ∧
    (t.lb ≠ s.lb → i = .frameStart ∨ i = .ingestM ∨ i = .ingestL ∨ i = .ingestR ∨ i = .ingestLR ∨
      i = .topFixup ∨ i = .rowShift) ∧
    (t.win ≠ s.win → i = .frameStart ∨ i = .winInsert) ∧
    (t.phase ≠ s.phase → i = .frameStart ∨ i = .advance ∨ i = .frameEnd ∨ i = .adaptIn) ∧
    (t.row ≠ s.row ∨ t.col ≠ s.col → i = .frameStart ∨ i = .advance) ∧
    (t.input ≠ s.input → i = .adaptIn ∨ i = .frameEnd) ∧
    (t.output ≠ s.output → i = .adaptOut) ∧
    (t.status ≠ s.status → i = .adaptIn ∨ i = .frameEnd) ∧
    (t.faultLog ≠ s.faultLog → i = .adaptIn ∨ i = .frameEnd) ∧
    (t.emissions ≠ s.emissions → i = .emit) ∧
    (∀ v, t.pIn = some v → t.pIn ≠ s.pIn → i = .adaptIn) ∧
    (∀ v, t.gIn = some v → t.gIn ≠ s.gIn → i = .gray) ∧
    (∀ v, t.eOut = some v → t.eOut ≠ s.eOut → i = .edge) ∧
    (∀ v, t.pOut = some v → t.pOut ≠ s.pOut → i = .expand) ∧
    (t.pIn = none → s.pIn ≠ none → i = .frameStart ∨ i = .advance ∨ t.phase = .idle) ∧
    (t.gIn = none → s.gIn ≠ none → i = .frameStart ∨ i = .advance ∨ t.phase = .idle) ∧
    (t.eOut = none → s.eOut ≠ none → i = .frameStart ∨ i = .advance ∨ t.phase = .idle) ∧
    (t.pOut = none → s.pOut ≠ none → i = .frameStart ∨ i = .advance ∨ t.phase = .idle) ∧
    (t.draws ≠ s.draws → i = .frameStart) ∧
    (t.discarding = true → s.discarding = false → i = .frameEnd) ∧
    (t.discarding = false → s.discarding = true → t.phase = .idle ∧ (i = .frameEnd ∨ i = .adaptIn)) ∧
    (t.upc ≠ s.upc → t.upc = s.upc + 1 ∧ i ≠ .frameStart ∧ i ≠ .advance ∧ i ≠ .frameEnd ∨
      t.upc = 0 ∧ (i = .frameStart ∨ i = .advance))

/-- R51, R120: within a frame, a line-buffer cell that changes is in column `col + 2`, or it is depth 4
of a margin column and the operation is an edge ingest; an ingest changes depth 4 only, TOP_FIXUP and
ROW_SHIFT never do. -/
def Obligations.LineBufferWritersReachOnlyTheirCells : Prop :=
  ∀ (i : Instr) (s t : State) (c : Nat) (d : Fin 5), 1 ≤ s.cfg.w → s.col < s.cfg.w →
    exec i s = .next t → i ≠ .frameStart → t.lb.cell c d ≠ s.lb.cell c d →
    (c = s.col + 2 ∨
      (i = .ingestL ∨ i = .ingestR ∨ i = .ingestLR) ∧ (c < 2 ∨ s.cfg.w + 2 ≤ c) ∧ c < s.cfg.w + 4) ∧
    ((i = .ingestM ∨ i = .ingestL ∨ i = .ingestR ∨ i = .ingestLR) ∧ d = 4 ∨
      (i = .topFixup ∨ i = .rowShift) ∧ d ≠ 4)

/-- R203: the phase transitions, and there is no other. -/
def Obligations.PhaseTransitionsAreTheListedOnes : Prop :=
  ∀ (i : Instr) (s t : State), s.Inv → s.cfg.geometryOk = true → exec i s = .next t →
    (s.phase = .idle → i = .frameStart ∧ t.phase = .scan) ∧
    (s.phase = .scan → t.phase = .finish →
      i = .advance ∧ s.row = s.cfg.h + 2 ∧ s.col + 1 = s.cfg.w) ∧
    (s.phase = .scan → i = .advance → s.row = s.cfg.h + 2 → s.col + 1 = s.cfg.w → t.phase = .finish) ∧
    (s.phase = .scan → t.phase = .idle →
      i = .adaptIn ∧ s.input.head? = some .boundary ∧ t.status = s.status ++ [.frameShort]) ∧
    (s.phase = .finish → t.phase = .scan → False) ∧
    (s.phase = .finish → t.phase = .idle → i = .frameEnd ∧ InItem.boundary ∈ s.input)

/-- R61, R129: no position is skipped or revisited: within a frame an operation leaves the raster index
as it is or moves it on by one, and only ADVANCE moves it. -/
def Obligations.RasterIndexAdvancesByOne : Prop :=
  ∀ (i : Instr) (s t : State), s.Inv → s.cfg.geometryOk = true → s.phase = .scan →
    exec i s = .next t → t.phase = .scan →
    (i ≠ .advance → t.row = s.row ∧ t.col = s.col) ∧
    (i = .advance → t.row * t.cfg.w + t.col = s.row * s.cfg.w + s.col + 1)

/-- R253: the complete list of holds: when a due operation leaves the whole state as it is. That a hold is
a next state equal to the state is the MODEL's choice (log entry 6); so is that FRAME_END and ADAPT_IN on
a full status queue leave the item they would pop in the input queue, where R201 and R181 pop first (log
entry 13, unsafe in part). -/
def Obligations.OnlyTheListedOperationsHold : Prop :=
  ∀ (i : Instr) (s : State), s.scheduled = some i →
    (exec i s = .next s ↔
      (i = .adaptIn ∧ (s.input = [] ∨ s.input.head? = some .boundary ∧ s.statusFull = true)) ∨
      (i = .adaptOut ∧ s.outputFull = true) ∨
      (i = .frameEnd ∧ (s.input = [] ∨ s.discarding = false ∧ s.statusFull = true)))

/-- R57, R62, R33: the queues are FIFO and the log sticky: a step takes items only off the front of the
input, and appends to the output (at most one beat), the status queue (at most one word), the log and
the emissions. R205: in SCAN it takes at most one item, in a row of the frame and nowhere else; a drain
row takes none. -/
def Obligations.QueuesAreFifoAndLogsAreSticky : Prop :=
  ∀ s t : State, step s = .next t →
    (∃ popped, s.input = popped ++ t.input ∧
      (s.phase = .scan → popped.length ≤ 1 ∧ (s.cfg.h ≤ s.row → popped = [])) ∧
      (s.phase = .idle → popped = [])) ∧
    (∃ pushed, t.output = s.output ++ pushed ∧ pushed.length ≤ 1) ∧
    (∃ pushed, t.status = s.status ++ pushed ∧ pushed.length ≤ 1) ∧
    (∃ logged, t.faultLog = s.faultLog ++ logged ∧ logged.length ≤ 1) ∧
    (∃ emitted, t.emissions = s.emissions ++ emitted ∧ emitted.length ≤ 1)

/-- R221, R226: a frame gets exactly one status word, when it ends or, for a long frame whose boundary has
not come, when its discard begins (R224 pushes first): then the word is FRAME_LONG; a resumed discard
pushes none. That such a discard waits in FINISH with the bit `discarding` is the MODEL's choice (log
entry 12). -/
def Obligations.OneStatusWordEndsAFrame : Prop :=
  ∀ s t : State, s.Inv → step s = .next t →
    (t.status = s.status ∨
      (s.discarding = false ∧ (s.phase = .finish ∨ s.phase = .scan) ∧
        (t.phase = .idle ∨ t.phase = .finish ∧ t.discarding = true) ∧
        ∃ word, t.status = s.status ++ [word])) ∧
    (s.phase ≠ .idle → t.phase = .idle → s.discarding = false → t.status ≠ s.status) ∧
    (s.discarding = false → t.discarding = true → t.status = s.status ++ [.frameLong]) ∧
    (s.discarding = true → t.status = s.status)

/-- R33, R227, R231: the sticky marks. Whatever else the state holds, a refusal mark refuses the step with
its reason, and with no mark a LatchUnset in the log faults it with one that the log holds; no turn but a
reset takes either away, so they stop every later step. Settling an outcome sets them, and a model that has
stopped records nothing more in the log; a FrameError in the log stops nothing. That `settle` records the
outcome, that a later step answers the same reason again and that it is recorded once are the MODEL's
choices (log entry 10); that a recorded FrameError stops nothing is its reading (log entry 11), and that a
reset clears the marks too (log entry 16). -/
def Obligations.StickyMarksStopTheModel : Prop :=
  (∀ (s : State) (why : Refusal), s.refusal = some why → step s = .refused why) ∧
  (∀ (s : State) (op : Instr) (row col : Nat), s.refusal = none → .latchUnset op row col ∈ s.faultLog →
    ∃ f ∈ s.faultLog, f.stops = true ∧ step s = .fault f) ∧
  (∀ (s : State) (t : Turn), t ≠ .host .reset →
    (∀ why, s.refusal = some why → (s.turn t).refusal = some why) ∧
    (∀ op row col, .latchUnset op row col ∈ s.faultLog →
      .latchUnset op row col ∈ (s.turn t).faultLog ∧ (s.turn t).refusal = s.refusal)) ∧
  (∀ (s : State) (why : Refusal), step s = .refused why →
    (s.settle (step s)).refusal = some why ∧ step (s.settle (step s)) = .refused why) ∧
  (∀ (s : State) (op : Instr) (row col : Nat), s.Ready → step s = .fault (.latchUnset op row col) →
    (s.settle (step s)).faultLog = s.faultLog ++ [.latchUnset op row col] ∧
    step (s.settle (step s)) = .fault (.latchUnset op row col)) ∧
  (∀ (s : State) (op : Instr) (row col : Nat), .latchUnset op row col ∈ s.faultLog →
    (s.settle (step s)).faultLog = s.faultLog) ∧
  (∀ (s : State) (cause : FrameCause) (count : Nat) (i : Instr), s.Ready → s.trace = [] →
    s.scheduled = some i →
    step (s.logFault (.frameError cause count)) = exec i (s.logFault (.frameError cause count)))

/-- R231, R220: a step faults only by reading a latch that is unset, it is one of the eight reading
operations (GRAY, the four ingests, EMIT, EXPAND, ADAPT_OUT), and the fault names the operation and the
position. -/
def Obligations.OnlyUnsetLatchesFault : Prop :=
  ∀ (i : Instr) (s : State) (f : Fault), exec i s = .fault f →
    f = .latchUnset i s.row s.col ∧
    (i = .gray ∧ s.pIn = none ∨
      (i = .ingestM ∨ i = .ingestL ∨ i = .ingestR ∨ i = .ingestLR) ∧ s.gIn = none ∨
      (i = .emit ∨ i = .expand) ∧ s.eOut = none ∨ i = .adaptOut ∧ s.pOut = none)

/- ------------------------------------------------------------------- reset -/

/-- R34, R250: what a reset leaves, for every configuration: IDLE at (0, 0), latches unset, queues empty,
log and mark clear, the build-time values as they were, and the arrays of the geometry's shape. A reset
at any later time leaves the same: the frame in progress is abandoned with no status word and no record.
That a later reset also clears the model's own records (log, mark, emissions, trace), where R33 says that
nothing removes an entry, and keeps the count of draws, is the MODEL's reading (log entry 16). -/
def Obligations.ResetLeavesAnIdleCore : Prop :=
  (∀ (c : Config) (n : Nat),
    let s := State.afterReset c n
    s.cfg = c ∧ s.phase = .idle ∧ s.row = 0 ∧ s.col = 0 ∧
    s.pIn = none ∧ s.gIn = none ∧ s.eOut = none ∧ s.pOut = none ∧
    s.input = [] ∧ s.output = [] ∧ s.status = [] ∧ s.faultLog = [] ∧ s.refusal = none ∧
    s.lb.length = c.w + 4) ∧
  (∃ c : Config, State.reset = State.afterReset c 0 ∧ c.w = Config.build.w ∧ c.h = Config.build.h ∧
    c.kx = Config.build.kx ∧ c.ky = Config.build.ky ∧ c.accW = Config.build.accW) ∧
  (∀ s : State, s.hostMove .reset = State.afterReset s.cfg s.draws ∧
    (s.hostMove .reset).scheduled = some .frameStart)

/-- The structural invariant and the binary invariant hold after reset, whatever the configuration. -/
def Obligations.ResetMeetsTheInvariants : Prop :=
  State.reset.Inv ∧ State.reset.Binary ∧
  (∀ (c : Config) (n : Nat), (State.afterReset c n).Inv ∧ (State.afterReset c n).Binary)

/-- R34, R250: after reset, on a well-formed configuration, the first step is FRAME_START, which needs
no input; the core then holds at ADAPT_IN of position (0, 0) until the host appends an item. That a hold is
a next state equal to the state is the MODEL's choice (log entry 6). -/
def Obligations.FirstStepsAfterReset : Prop :=
  ∀ (c : Config) (n : Nat), c.wf = true →
    ∃ t, step (State.afterReset c n) = .next t ∧ t.phase = .scan ∧ t.row = 0 ∧ t.col = 0 ∧
      t.scheduled = some .adaptIn ∧ step t = .next t

/- -------------------------------------------------------------- invariants -/

/-- THE STRUCTURAL INVARIANT IS KEPT (R22, R24, R29, R36): every step from a state that has it. -/
def Obligations.StepKeepsTheStructuralInvariant : Prop :=
  ∀ s t : State, s.Inv → step s = .next t → t.Inv

/-- THE BINARY INVARIANT IS KEPT (R84, R162): every step from a state that has it. -/
def Obligations.StepKeepsOutputsBinary : Prop :=
  ∀ s t : State, s.Binary → step s = .next t → t.Binary

/-- The host's moves keep both invariants (R252: it has no move into the core). -/
def Obligations.HostMovesKeepTheInvariants : Prop :=
  ∀ (s : State) (m : HostMove), (s.Inv → (s.hostMove m).Inv) ∧ (s.Binary → (s.hostMove m).Binary)

/-- R220, R231: THE CORE NEVER STOPS: with no trace, a well-formed configuration and no standing stop,
every state of the structural invariant has a next state: no fault, no refusal, no index out of range. A
hold counts as a next state here, equal to the state, where R253 says that a held core has no step: the
MODEL's choice (log entry 6). -/
def Obligations.LegalSequenceNeverStops : Prop :=
  ∀ s : State, s.Inv → s.Ready → s.trace = [] → ∃ t, step s = .next t ∧ t.Ready ∧ t.trace = []

/-- R134: THE MARGIN COLUMNS ARE NEVER READ: two states that differ only there step alike and stay so. -/
def Obligations.MarginColumnsAreNeverRead : Prop :=
  ∀ s t : State, s.AgreeOffMargins t → s.col < s.cfg.w →
    Result.AgreeOffMargins (step s) (step t)

/-- R63, R204: FRAME_START forgets the frame before: two machines of one configuration that differ in
anything a frame leaves behind (position, arrays, latches) are the same after it; every cell of both
arrays is a free value of a draw that no earlier frame has used. The count of draws and the engine's source
of draws are the MODEL's own (log entries 4, 5 and 25). -/
def Obligations.FrameStartForgetsThePreviousFrame : Prop :=
  (∀ s t : State, s.phase = .idle → t.phase = .idle →
    { s with row := t.row, col := t.col, upc := t.upc, lb := t.lb, win := t.win, pIn := t.pIn,
             gIn := t.gIn, eOut := t.eOut, pOut := t.pOut } = t →
    exec .frameStart s = exec .frameStart t) ∧
  (∀ s t : State, exec .frameStart s = .next t →
    t.draws = s.draws + 1 ∧
    (∀ c : Nat, ∀ d : Fin 5, c < s.cfg.w + 4 → t.lb.cell c d = some (Config.lbDraw s.cfg.source s.draws c d)) ∧
    (∀ r k : Fin 5, (t.win.get r).get k = Config.winDraw s.cfg.source s.draws r k))

/- ------------------------------------------------------- whole-frame behaviour -/

/-- R131, R132, R39: FRAME_START of a well-formed frame begins the frame invariant. -/
def Obligations.FrameStartBeginsTracking : Prop :=
  ∀ (s : State) (frame : List Rgb) (rest : List InItem), s.cfg.wf = true → s.phase = .idle →
    s.discarding = false → s.trace = [] → frame.length = s.cfg.npix →
    s.input = frameItems frame ++ rest →
    ∃ t, exec .frameStart s = .next t ∧
      t.FrameTracks frame (s.cfg.drawWindow s.draws) rest s.output s.emissions

/-- R131, R132, R136: EVERY STEP KEEPS THE FRAME INVARIANT: the line-buffer columns, the window, the
latches, what was consumed, emitted and pushed are at every point what the closed forms say, until
FRAME_END reports OK with the whole frame pushed. -/
def Obligations.StepKeepsTheFrameInvariant : Prop :=
  ∀ (s t : State) (frame : List Rgb) (win0 : Window) (rest : List InItem) (out0 : List Rgb)
    (em0 : List (Nat × Byte)), s.Inv → s.FrameTracks frame win0 rest out0 em0 → s.Unbounded →
    step s = .next t →
    (t.phase ≠ .idle → t.FrameTracks frame win0 rest out0 em0 ∧ t.status = s.status) ∧
    (t.phase = .idle → t.input = rest ∧ t.status = s.status ++ [.ok] ∧
      t.output = out0 ++ (List.range s.cfg.npix).map
        (frameBeat s.cfg (grayImage s.cfg frame) win0))

/-- R131: at WIN_INSERT of a frame in progress, line-buffer column `x + 2` of the position's column `x`
holds frame rows `R−4 .. R` of column `x`, clamped to the frame. -/
def Obligations.ColumnAtEmissionIsTheClampedVerticalRun : Prop :=
  ∀ (s : State) (frame : List Rgb) (win0 : Window) (rest : List InItem) (out0 : List Rgb)
    (em0 : List (Nat × Byte)) (d : Fin 5), s.Inv → s.cfg.geometryOk = true →
    s.FrameTracks frame win0 rest out0 em0 → s.scheduled = some .winInsert →
    s.lb.cell (s.col + 2) d =
      some (grayImage s.cfg frame (cv s.cfg ((s.row : Int) - 4 + (d.val : Int))) s.col)

/-- R202: THE FRAME FUNCTION. From position (0, 0) of a frame whose `NPIX` beats and boundary are in
the input queue, WHATEVER the window and the line buffer hold, the core runs the rest of the frame
program without a stop and appends exactly the beats `B_0 .. B_{NPIX−1}` and the status OK. -/
def Obligations.FrameFunction : Prop :=
  ∀ (s : State) (frame : List Rgb) (rest : List InItem), s.Inv → s.Ready → s.Unbounded →
    s.phase = .scan → s.row = 0 → s.col = 0 → s.upc = 0 → s.trace = [] →
    frame.length = s.cfg.npix → s.input = frameItems frame ++ rest →
    ∃ t, Host.Core.run Sys2Proof.core (s.cfg.frameProgram.length - 1) s = .next t ∧
      t.output = s.output ++ frameBeats s.cfg frame s.win ∧ t.status = s.status ++ [.ok] ∧
      t.input = rest ∧ t.phase = .idle ∧ t.faultLog = s.faultLog

/-- R133, R137: for an output column `j ≥ 4` the window at emission `o·W + j` is the 5×5 neighbourhood of
input pixel `(o + 1, j − 2)`, clamped vertically only; for `j < 4` and `o ≥ 1`, with `W ≥ 4`, its first
columns are the right end of the frame, centred one row higher. -/
def Obligations.OutputIsRegisteredOneDownTwoLeft : Prop :=
  ∀ (c : Config) (g : Nat → Nat → Byte) (win0 : Window) (o j : Nat) (r k : Fin 5), j < c.w →
    (4 ≤ j →
      ((windowAfter c g win0 (o * c.w + j + 1)).get r).get k =
        g (cv c ((o : Int) + (r.val : Int) - 1)) (j - 4 + k.val)) ∧
    (j < 4 → 1 ≤ o → 4 ≤ c.w →
      ((windowAfter c g win0 (o * c.w + j + 1)).get r).get k =
        if k.val < 4 - j then g (cv c ((o : Int) + (r.val : Int) - 2)) (c.w - 4 + j + k.val)
        else g (cv c ((o : Int) + (r.val : Int) - 1)) (j + k.val - 4))

/-- R135: outputs from emission 4 on do not depend on the frame-start window, whatever the kernel; and
the window of an earlier emission `n` has its columns `0 .. 3 − n` from Win0. -/
def Obligations.OnlyTheFirstFourOutputsDependOnWin0 : Prop :=
  (∀ (c : Config) (g : Nat → Nat → Byte) (win0 win0' : Window) (n : Nat), 4 ≤ n →
    frameBeat c g win0 n = frameBeat c g win0' n) ∧
  (∀ (c : Config) (g : Nat → Nat → Byte) (win0 : Window) (n : Nat) (r k : Fin 5), n ≤ 3 →
    k.val ≤ 3 - n →
    ∃ k' : Fin 5, k'.val = k.val + n + 1 ∧
      ((windowAfter c g win0 (n + 1)).get r).get k = (win0.get r).get k')

/-- E4 with C7: a flat frame gives black from emission 4 on under `KernelZeroSum`, whatever Win0 holds. -/
def Obligations.FlatFrameIsBlackFromTheFifthOutput : Prop :=
  ∀ (c : Config) (frame : List Rgb) (p : Rgb) (win0 : Window) (n : Nat), 1 ≤ c.w → 1 ≤ c.h →
    frame = List.replicate c.npix p → c.kernelZeroSum = true → 4 ≤ n → n < c.npix →
    frameBeat c (grayImage c frame) win0 n = ⟨0, 0, 0⟩

/-- E5 with C6: frames that differ only in frame column 0 give the same outputs in every column from 5
on, for every kernel. -/
def Obligations.ColumnZeroReachesOnlyFiveOutputColumns : Prop :=
  ∀ (c : Config) (g g' : Nat → Nat → Byte) (win0 : Window) (o j : Nat),
    (∀ y x, x ≠ 0 → g y x = g' y x) → 5 ≤ j → j < c.w →
    frameBeat c g win0 (o * c.w + j) = frameBeat c g' win0 (o * c.w + j)

/- ----------------------------------------------------------- host, platform -/

/-- R32, R62, R69: a delivered item waits behind everything already in the queue, the host takes the
oldest beat and the oldest word, and none of its moves on the queues changes anything else. -/
def Obligations.HostQueueMovesAreFifo : Prop :=
  ∀ (s : State) (item : InItem) (p : Rgb) (w : FrameStatus) (ps : List Rgb) (ws : List FrameStatus),
    s.hostMove (.deliver item) = { s with input := s.input ++ [item] } ∧
    (s.output = p :: ps → s.hostMove .takeOutput = { s with output := ps }) ∧
    (s.status = w :: ws → s.hostMove .takeStatus = { s with status := ws })

/-- R38, R64, R236: engines share nothing: a turn of one is a turn of that engine alone, leaves every other
as it was, does not depend on the others, and leaves each engine its own source of draws. A platform as a
list of engines that take turns, and draws that each engine takes from a source of its own, are the MODEL's
choices (log entries 17 and 25). -/
def Obligations.EnginesShareNothing : Prop :=
  ∀ (p q : Platform) (i j : Nat) (t : Turn),
    (p.turnOf i t).count = p.count ∧
    (p.turnOf i t).engines[i]? = p.engines[i]?.map (fun s => s.turn t) ∧
    (i ≠ j → (p.turnOf i t).engines[j]? = p.engines[j]?) ∧
    (p.engines[i]? = q.engines[i]? → (p.turnOf i t).engines[i]? = (q.turnOf i t).engines[i]?) ∧
    (p.wf = true → (p.turnOf i t).wf = true)

/-- R55: with the position in range every line-buffer column an operation forms exists, and an operation
that still forms one outside the line buffer is refused IndexRange, neither wrapped nor clamped; depths
and window indices have five values by their type. -/
def Obligations.ColumnsOutsideTheLineBufferAreRefused : Prop :=
  (∀ (i : Instr) (s : State), s.lb.length = s.cfg.w + 4 → s.col < s.cfg.w →
    exec i s ≠ .refused .indexRange) ∧
  (∀ (i : Instr) (s : State), s.scheduled = some i →
    (i = .ingestM ∨ i = .winInsert ∨ i = .topFixup ∨ i = .rowShift) ∧ s.lb.length ≤ s.col + 2 ∨
      i = .ingestL ∧ s.lb.length ≤ 2 ∨ i = .ingestR ∧ s.lb.length ≤ s.cfg.w - 1 + 4 ∨
      i = .ingestLR ∧ s.lb.length ≤ 4 →
    exec i s = .refused .indexRange)
end

