-- ==== Sys2Proof/Laws/LineBuffer.lean ====
section
/-! SUPPORT. What each operation on the line buffer and the window does, cell by cell, and that every one
keeps the line buffer's canonical form (`LineBuffer.wf`: exactly `LBW` columns). -/

namespace Sys2Proof

@[simp] theorem Config.OFFSET_eq : Config.OFFSET = 2 := rfl
@[simp] theorem Config.lbw_eq (c : Config) : c.lbw = c.w + 4 := rfl
@[simp] theorem Config.rows_eq (c : Config) : c.rows = c.h + 3 := rfl

@[simp] theorem Five.get_ofFn {α : Type} (f : Fin 5 → α) (i : Fin 5) : (Five.ofFn f).get i = f i := by
  fin_cases i <;> rfl

theorem Five.ext_get {α : Type} {x y : Five α} (h : ∀ i, x.get i = y.get i) : x = y := by
  cases x; cases y
  have h0 := h 0; have h1 := h 1; have h2 := h 2; have h3 := h 3; have h4 := h 4
  simp_all [Five.get]

@[simp] theorem LineBuffer.length_update (lb : LineBuffer) (c : Nat) (f : Cells → Cells) :
    (lb.update c f).length = lb.length := by
  simp [LineBuffer.update]

@[simp] theorem LineBuffer.length_writeNewest (cols : List Nat) (v : Byte) (lb : LineBuffer) :
    (lb.writeNewest cols v).length = lb.length := by
  induction cols generalizing lb with
  | nil => rfl
  | cons c cs ih => exact (ih _).trans (LineBuffer.length_update ..)

theorem LineBuffer.getElem?_update (lb : LineBuffer) (k : Nat) (f : Cells → Cells) (c : Nat) :
    (lb.update k f)[c]? = if c = k then lb[c]?.map f else lb[c]? := by
  simp only [LineBuffer.update, List.getElem?_modify, eq_comm (a := k)]
  split <;> simp

theorem LineBuffer.cell_update (lb : LineBuffer) (k : Nat) (f : Cells → Cells) (c : Nat) (d : Fin 5) :
    (lb.update k f).cell c d = if c = k then lb[c]?.map fun x => (f x).get d else lb.cell c d := by
  simp only [LineBuffer.cell, LineBuffer.getElem?_update]
  split <;> simp [Function.comp_def]

/-- A column after the newest depths of some columns were written: unchanged, or its depth 4 replaced. -/
theorem LineBuffer.getElem?_writeNewest (cols : List Nat) (v : Byte) (lb : LineBuffer) (c : Nat) :
    (lb.writeNewest cols v)[c]? =
      if c ∈ cols then lb[c]?.map fun x => x.setNewest v else lb[c]? := by
  induction cols generalizing lb with
  | nil => rfl
  | cons k ks ih =>
    refine (ih (lb.update k fun x => x.setNewest v)).trans ?_
    rw [LineBuffer.getElem?_update]
    by_cases h : c = k <;> by_cases h' : c ∈ ks <;>
      simp_all [Function.comp_def, Cells.setNewest]

theorem Cells.get_setNewest (x : Cells) (v : Byte) (d : Fin 5) :
    (x.setNewest v).get d = if d = 4 then v else x.get d := by
  fin_cases d <;> rfl

theorem Cells.get_seed (x : Cells) (d : Fin 5) : x.seed.get d = x.get 4 := by
  fin_cases d <;> rfl

/-- Cells after the newest depths of some columns were written. -/
theorem LineBuffer.cell_writeNewest (cols : List Nat) (v : Byte) (lb : LineBuffer) (c : Nat) (d : Fin 5) :
    (lb.writeNewest cols v).cell c d =
      if c ∈ cols ∧ c < lb.length ∧ d = 4 then some v else lb.cell c d := by
  simp only [LineBuffer.cell, LineBuffer.getElem?_writeNewest]
  by_cases hc : c ∈ cols <;> by_cases hl : c < lb.length <;> by_cases hd : d = 4 <;>
    simp [hc, hl, hd, Cells.get_setNewest]

theorem Window.get_shiftIn (w : Window) (x : Cells) (r : Fin 5) :
    (w.shiftIn x).get r = (w.get r).shiftIn (x.get r) := by
  fin_cases r <;> rfl

theorem LineBuffer.wf_update (c : Config) (lb : LineBuffer) (k : Nat) (f : Cells → Cells)
    (h : lb.wf c = true) : (lb.update k f).wf c = true := by
  rwa [LineBuffer.wf, LineBuffer.length_update]

theorem LineBuffer.wf_writeNewest (c : Config) (lb : LineBuffer) (cols : List Nat) (v : Byte)
    (h : lb.wf c = true) : (lb.writeNewest cols v).wf c = true := by
  rwa [LineBuffer.wf, LineBuffer.length_writeNewest]

theorem Config.wf_drawLineBuffer (c : Config) (n : Nat) : (c.drawLineBuffer n).wf c = true := by
  simp [LineBuffer.wf, Config.drawLineBuffer]

theorem Config.cell_drawLineBuffer (c : Config) (n col : Nat) (d : Fin 5) (h : col < c.lbw) :
    (c.drawLineBuffer n).cell col d = some (Config.lbDraw c.source n col d.val) := by
  simp only [LineBuffer.cell, Config.drawLineBuffer, List.getElem?_map, List.getElem?_range h,
    Option.map_some, Five.get_ofFn]

/-- The line buffer of the machine after reset is in its canonical form, whatever the configuration. -/
theorem Machine.State.reset_lb_wf :
    (Machine.State.reset).lb.wf (Machine.State.reset).cfg = true :=
  Config.wf_drawLineBuffer _ _

end Sys2Proof
end

