-- ==== Sys2Proof/Laws/State.lean ====
section
/-! SUPPORT. One lemma per field per named update of the state (Machine/Ops.lean), each true by
unfolding that update once. -/

namespace Sys2Proof.Machine

variable (s : State)

@[simp] theorem State.retire_cfg : s.retire.cfg = s.cfg := rfl
@[simp] theorem State.retire_phase : s.retire.phase = s.phase := rfl
@[simp] theorem State.retire_row : s.retire.row = s.row := rfl
@[simp] theorem State.retire_col : s.retire.col = s.col := rfl
@[simp] theorem State.retire_upc : s.retire.upc = s.upc + 1 := rfl
@[simp] theorem State.retire_lb : s.retire.lb = s.lb := rfl
@[simp] theorem State.retire_win : s.retire.win = s.win := rfl
@[simp] theorem State.retire_pIn : s.retire.pIn = s.pIn := rfl
@[simp] theorem State.retire_gIn : s.retire.gIn = s.gIn := rfl
@[simp] theorem State.retire_eOut : s.retire.eOut = s.eOut := rfl
@[simp] theorem State.retire_pOut : s.retire.pOut = s.pOut := rfl
@[simp] theorem State.retire_discarding : s.retire.discarding = s.discarding := rfl
@[simp] theorem State.retire_input : s.retire.input = s.input := rfl
@[simp] theorem State.retire_output : s.retire.output = s.output := rfl
@[simp] theorem State.retire_status : s.retire.status = s.status := rfl
@[simp] theorem State.retire_faultLog : s.retire.faultLog = s.faultLog := rfl
@[simp] theorem State.retire_refusal : s.retire.refusal = s.refusal := rfl
@[simp] theorem State.retire_emissions : s.retire.emissions = s.emissions := rfl
@[simp] theorem State.retire_trace : s.retire.trace = s.trace.tail := rfl
@[simp] theorem State.retire_draws : s.retire.draws = s.draws := rfl

@[simp] theorem State.clearLatches_cfg : s.clearLatches.cfg = s.cfg := rfl
@[simp] theorem State.clearLatches_phase : s.clearLatches.phase = s.phase := rfl
@[simp] theorem State.clearLatches_row : s.clearLatches.row = s.row := rfl
@[simp] theorem State.clearLatches_col : s.clearLatches.col = s.col := rfl
@[simp] theorem State.clearLatches_upc : s.clearLatches.upc = s.upc := rfl
@[simp] theorem State.clearLatches_lb : s.clearLatches.lb = s.lb := rfl
@[simp] theorem State.clearLatches_win : s.clearLatches.win = s.win := rfl
@[simp] theorem State.clearLatches_pIn : s.clearLatches.pIn = none := rfl
@[simp] theorem State.clearLatches_gIn : s.clearLatches.gIn = none := rfl
@[simp] theorem State.clearLatches_eOut : s.clearLatches.eOut = none := rfl
@[simp] theorem State.clearLatches_pOut : s.clearLatches.pOut = none := rfl
@[simp] theorem State.clearLatches_discarding : s.clearLatches.discarding = s.discarding := rfl
@[simp] theorem State.clearLatches_input : s.clearLatches.input = s.input := rfl
@[simp] theorem State.clearLatches_output : s.clearLatches.output = s.output := rfl
@[simp] theorem State.clearLatches_status : s.clearLatches.status = s.status := rfl
@[simp] theorem State.clearLatches_faultLog : s.clearLatches.faultLog = s.faultLog := rfl
@[simp] theorem State.clearLatches_refusal : s.clearLatches.refusal = s.refusal := rfl
@[simp] theorem State.clearLatches_emissions : s.clearLatches.emissions = s.emissions := rfl
@[simp] theorem State.clearLatches_trace : s.clearLatches.trace = s.trace := rfl
@[simp] theorem State.clearLatches_draws : s.clearLatches.draws = s.draws := rfl

@[simp] theorem State.outPush_cfg (p : Rgb) : (s.outPush p).cfg = s.cfg := rfl
@[simp] theorem State.outPush_phase (p : Rgb) : (s.outPush p).phase = s.phase := rfl
@[simp] theorem State.outPush_row (p : Rgb) : (s.outPush p).row = s.row := rfl
@[simp] theorem State.outPush_col (p : Rgb) : (s.outPush p).col = s.col := rfl
@[simp] theorem State.outPush_upc (p : Rgb) : (s.outPush p).upc = s.upc := rfl
@[simp] theorem State.outPush_lb (p : Rgb) : (s.outPush p).lb = s.lb := rfl
@[simp] theorem State.outPush_win (p : Rgb) : (s.outPush p).win = s.win := rfl
@[simp] theorem State.outPush_pIn (p : Rgb) : (s.outPush p).pIn = s.pIn := rfl
@[simp] theorem State.outPush_gIn (p : Rgb) : (s.outPush p).gIn = s.gIn := rfl
@[simp] theorem State.outPush_eOut (p : Rgb) : (s.outPush p).eOut = s.eOut := rfl
@[simp] theorem State.outPush_pOut (p : Rgb) : (s.outPush p).pOut = s.pOut := rfl
@[simp] theorem State.outPush_discarding (p : Rgb) : (s.outPush p).discarding = s.discarding := rfl
@[simp] theorem State.outPush_input (p : Rgb) : (s.outPush p).input = s.input := rfl
@[simp] theorem State.outPush_output (p : Rgb) : (s.outPush p).output = s.output ++ [p] := rfl
@[simp] theorem State.outPush_status (p : Rgb) : (s.outPush p).status = s.status := rfl
@[simp] theorem State.outPush_faultLog (p : Rgb) : (s.outPush p).faultLog = s.faultLog := rfl
@[simp] theorem State.outPush_refusal (p : Rgb) : (s.outPush p).refusal = s.refusal := rfl
@[simp] theorem State.outPush_emissions (p : Rgb) : (s.outPush p).emissions = s.emissions := rfl
@[simp] theorem State.outPush_trace (p : Rgb) : (s.outPush p).trace = s.trace := rfl
@[simp] theorem State.outPush_draws (p : Rgb) : (s.outPush p).draws = s.draws := rfl

@[simp] theorem State.statusPush_cfg (w : FrameStatus) : (s.statusPush w).cfg = s.cfg := rfl
@[simp] theorem State.statusPush_phase (w : FrameStatus) : (s.statusPush w).phase = s.phase := rfl
@[simp] theorem State.statusPush_row (w : FrameStatus) : (s.statusPush w).row = s.row := rfl
@[simp] theorem State.statusPush_col (w : FrameStatus) : (s.statusPush w).col = s.col := rfl
@[simp] theorem State.statusPush_upc (w : FrameStatus) : (s.statusPush w).upc = s.upc := rfl
@[simp] theorem State.statusPush_lb (w : FrameStatus) : (s.statusPush w).lb = s.lb := rfl
@[simp] theorem State.statusPush_win (w : FrameStatus) : (s.statusPush w).win = s.win := rfl
@[simp] theorem State.statusPush_pIn (w : FrameStatus) : (s.statusPush w).pIn = s.pIn := rfl
@[simp] theorem State.statusPush_gIn (w : FrameStatus) : (s.statusPush w).gIn = s.gIn := rfl
@[simp] theorem State.statusPush_eOut (w : FrameStatus) : (s.statusPush w).eOut = s.eOut := rfl
@[simp] theorem State.statusPush_pOut (w : FrameStatus) : (s.statusPush w).pOut = s.pOut := rfl
@[simp] theorem State.statusPush_discarding (w : FrameStatus) :
    (s.statusPush w).discarding = s.discarding := rfl
@[simp] theorem State.statusPush_input (w : FrameStatus) : (s.statusPush w).input = s.input := rfl
@[simp] theorem State.statusPush_output (w : FrameStatus) :
    (s.statusPush w).output = s.output := rfl
@[simp] theorem State.statusPush_status (w : FrameStatus) :
    (s.statusPush w).status = s.status ++ [w] := rfl
@[simp] theorem State.statusPush_faultLog (w : FrameStatus) :
    (s.statusPush w).faultLog = s.faultLog := rfl
@[simp] theorem State.statusPush_refusal (w : FrameStatus) :
    (s.statusPush w).refusal = s.refusal := rfl
@[simp] theorem State.statusPush_emissions (w : FrameStatus) :
    (s.statusPush w).emissions = s.emissions := rfl
@[simp] theorem State.statusPush_trace (w : FrameStatus) : (s.statusPush w).trace = s.trace := rfl
@[simp] theorem State.statusPush_draws (w : FrameStatus) : (s.statusPush w).draws = s.draws := rfl

@[simp] theorem State.logFault_cfg (f : Fault) : (s.logFault f).cfg = s.cfg := rfl
@[simp] theorem State.logFault_phase (f : Fault) : (s.logFault f).phase = s.phase := rfl
@[simp] theorem State.logFault_row (f : Fault) : (s.logFault f).row = s.row := rfl
@[simp] theorem State.logFault_col (f : Fault) : (s.logFault f).col = s.col := rfl
@[simp] theorem State.logFault_upc (f : Fault) : (s.logFault f).upc = s.upc := rfl
@[simp] theorem State.logFault_lb (f : Fault) : (s.logFault f).lb = s.lb := rfl
@[simp] theorem State.logFault_win (f : Fault) : (s.logFault f).win = s.win := rfl
@[simp] theorem State.logFault_pIn (f : Fault) : (s.logFault f).pIn = s.pIn := rfl
@[simp] theorem State.logFault_gIn (f : Fault) : (s.logFault f).gIn = s.gIn := rfl
@[simp] theorem State.logFault_eOut (f : Fault) : (s.logFault f).eOut = s.eOut := rfl
@[simp] theorem State.logFault_pOut (f : Fault) : (s.logFault f).pOut = s.pOut := rfl
@[simp] theorem State.logFault_discarding (f : Fault) :
    (s.logFault f).discarding = s.discarding := rfl
@[simp] theorem State.logFault_input (f : Fault) : (s.logFault f).input = s.input := rfl
@[simp] theorem State.logFault_output (f : Fault) : (s.logFault f).output = s.output := rfl
@[simp] theorem State.logFault_status (f : Fault) : (s.logFault f).status = s.status := rfl
@[simp] theorem State.logFault_faultLog (f : Fault) :
    (s.logFault f).faultLog = s.faultLog ++ [f] := rfl
@[simp] theorem State.logFault_refusal (f : Fault) : (s.logFault f).refusal = s.refusal := rfl
@[simp] theorem State.logFault_emissions (f : Fault) :
    (s.logFault f).emissions = s.emissions := rfl
@[simp] theorem State.logFault_trace (f : Fault) : (s.logFault f).trace = s.trace := rfl
@[simp] theorem State.logFault_draws (f : Fault) : (s.logFault f).draws = s.draws := rfl

@[simp] theorem State.endFrame_cfg : s.endFrame.cfg = s.cfg := rfl
@[simp] theorem State.endFrame_phase : s.endFrame.phase = .idle := rfl
@[simp] theorem State.endFrame_row : s.endFrame.row = s.row := rfl
@[simp] theorem State.endFrame_col : s.endFrame.col = s.col := rfl
@[simp] theorem State.endFrame_upc : s.endFrame.upc = s.upc := rfl
@[simp] theorem State.endFrame_lb : s.endFrame.lb = s.lb := rfl
@[simp] theorem State.endFrame_win : s.endFrame.win = s.win := rfl
@[simp] theorem State.endFrame_pIn : s.endFrame.pIn = s.pIn := rfl
@[simp] theorem State.endFrame_gIn : s.endFrame.gIn = s.gIn := rfl
@[simp] theorem State.endFrame_eOut : s.endFrame.eOut = s.eOut := rfl
@[simp] theorem State.endFrame_pOut : s.endFrame.pOut = s.pOut := rfl
@[simp] theorem State.endFrame_discarding : s.endFrame.discarding = false := rfl
@[simp] theorem State.endFrame_input : s.endFrame.input = s.input := rfl
@[simp] theorem State.endFrame_output : s.endFrame.output = s.output := rfl
@[simp] theorem State.endFrame_status : s.endFrame.status = s.status := rfl
@[simp] theorem State.endFrame_faultLog : s.endFrame.faultLog = s.faultLog := rfl
@[simp] theorem State.endFrame_refusal : s.endFrame.refusal = s.refusal := rfl
@[simp] theorem State.endFrame_emissions : s.endFrame.emissions = s.emissions := rfl
@[simp] theorem State.endFrame_trace : s.endFrame.trace = s.trace.tail := rfl
@[simp] theorem State.endFrame_draws : s.endFrame.draws = s.draws := rfl

@[simp] theorem State.endInError_cfg (cause : FrameCause) (count : Nat) :
    (s.endInError cause count).cfg = s.cfg := rfl
@[simp] theorem State.endInError_phase (cause : FrameCause) (count : Nat) :
    (s.endInError cause count).phase = .idle := rfl
@[simp] theorem State.endInError_row (cause : FrameCause) (count : Nat) :
    (s.endInError cause count).row = s.row := rfl
@[simp] theorem State.endInError_col (cause : FrameCause) (count : Nat) :
    (s.endInError cause count).col = s.col := rfl
@[simp] theorem State.endInError_upc (cause : FrameCause) (count : Nat) :
    (s.endInError cause count).upc = s.upc := rfl
@[simp] theorem State.endInError_lb (cause : FrameCause) (count : Nat) :
    (s.endInError cause count).lb = s.lb := rfl
@[simp] theorem State.endInError_win (cause : FrameCause) (count : Nat) :
    (s.endInError cause count).win = s.win := rfl
@[simp] theorem State.endInError_pIn (cause : FrameCause) (count : Nat) :
    (s.endInError cause count).pIn = none := rfl
@[simp] theorem State.endInError_gIn (cause : FrameCause) (count : Nat) :
    (s.endInError cause count).gIn = none := rfl
@[simp] theorem State.endInError_eOut (cause : FrameCause) (count : Nat) :
    (s.endInError cause count).eOut = none := rfl
@[simp] theorem State.endInError_pOut (cause : FrameCause) (count : Nat) :
    (s.endInError cause count).pOut = none := rfl
@[simp] theorem State.endInError_discarding (cause : FrameCause) (count : Nat) :
    (s.endInError cause count).discarding = false := rfl
@[simp] theorem State.endInError_input (cause : FrameCause) (count : Nat) :
    (s.endInError cause count).input = s.input := rfl
@[simp] theorem State.endInError_output (cause : FrameCause) (count : Nat) :
    (s.endInError cause count).output = s.output := rfl
@[simp] theorem State.endInError_status (cause : FrameCause) (count : Nat) :
    (s.endInError cause count).status = s.status := rfl
@[simp] theorem State.endInError_faultLog (cause : FrameCause) (count : Nat) :
    (s.endInError cause count).faultLog = s.faultLog ++ [.frameError cause count] := rfl
@[simp] theorem State.endInError_refusal (cause : FrameCause) (count : Nat) :
    (s.endInError cause count).refusal = s.refusal := rfl
@[simp] theorem State.endInError_emissions (cause : FrameCause) (count : Nat) :
    (s.endInError cause count).emissions = s.emissions := rfl
@[simp] theorem State.endInError_trace (cause : FrameCause) (count : Nat) :
    (s.endInError cause count).trace = s.trace.tail := rfl
@[simp] theorem State.endInError_draws (cause : FrameCause) (count : Nat) :
    (s.endInError cause count).draws = s.draws := rfl

end Sys2Proof.Machine
end

