-- ==== Sys2Proof/Laws/Ops.lean ====
section
/-! SUPPORT. One lemma per shared operation, saying once everything it can answer. -/

namespace Sys2Proof.Machine

variable {α : Type} {i : Instr} {s t : State} {body : Result} {f : Fault} {why : Refusal}

theorem issue_scheduled (h : s.scheduled = some i) : issue i s body = body := by
  simp [issue, h]

theorem issue_unscheduled (h : s.scheduled ≠ some i) : issue i s body = .refused .outOfSequence := by
  simp [issue, h]

theorem issue_next : issue i s body = .next t ↔ s.scheduled = some i ∧ body = .next t := by
  unfold issue; split <;> simp_all

theorem issue_fault : issue i s body = .fault f ↔ s.scheduled = some i ∧ body = .fault f := by
  unfold issue; split <;> simp_all

theorem readLatch_next {latch : Option α} {use : α → Result} :
    readLatch latch i s use = .next t ↔ ∃ v, latch = some v ∧ use v = .next t := by
  cases latch <;> simp [readLatch]

theorem readLatch_fault {latch : Option α} {use : α → Result} :
    readLatch latch i s use = .fault f ↔
      (latch = none ∧ f = .latchUnset i s.row s.col) ∨ ∃ v, latch = some v ∧ use v = .fault f := by
  cases latch <;> simp [readLatch, eq_comm]

theorem reachColumns_next {cols : List Nat} :
    reachColumns cols s body = .next t ↔ (∀ c ∈ cols, c < s.lb.length) ∧ body = .next t := by
  unfold reachColumns
  split <;> rename_i h <;> simp only [List.all_eq_true, decide_eq_true_eq] at h
  · exact ⟨fun hb => ⟨h, hb⟩, fun hb => hb.2⟩
  · exact ⟨fun hb => (nomatch hb), fun hb => absurd hb.1 h⟩

theorem reachColumns_fault {cols : List Nat} :
    reachColumns cols s body = .fault f ↔ (∀ c ∈ cols, c < s.lb.length) ∧ body = .fault f := by
  unfold reachColumns
  split <;> rename_i h <;> simp only [List.all_eq_true, decide_eq_true_eq] at h
  · exact ⟨fun hb => ⟨h, hb⟩, fun hb => hb.2⟩
  · exact ⟨fun hb => (nomatch hb), fun hb => absurd hb.1 h⟩

/-- Columns that all exist are reached. -/
theorem reachColumns_within {cols : List Nat} (h : ∀ c ∈ cols, c < s.lb.length) :
    reachColumns cols s body = body := by
  simp only [reachColumns, List.all_eq_true, decide_eq_true_eq]
  exact if_pos h

/-- A column that does not exist is refused (R55). -/
theorem reachColumns_outside {cols : List Nat} {c : Nat} (hc : c ∈ cols) (h : s.lb.length ≤ c) :
    reachColumns cols s body = .refused .indexRange := by
  unfold reachColumns
  rw [if_neg]
  simp only [List.all_eq_true, decide_eq_true_eq, not_forall]
  exact ⟨c, hc, by omega⟩

/-- The discard finds the first BOUNDARY. -/
theorem afterBoundary_beats_boundary (ps : List Rgb) (rest : List InItem) :
    afterBoundary (ps.map InItem.beat ++ .boundary :: rest) = some rest := by
  induction ps with
  | nil => rfl
  | cons p ps ih => exact ih

/-- With beats alone in the queue the discard goes on waiting. -/
theorem afterBoundary_beats (ps : List Rgb) : afterBoundary (ps.map InItem.beat) = none := by
  induction ps with
  | nil => rfl
  | cons p ps ih => exact ih

/-- What the discard leaves is a tail of what it found, with a BOUNDARY before it. -/
theorem afterBoundary_some {items rest : List InItem} (h : afterBoundary items = some rest) :
    ∃ dropped, items = dropped ++ .boundary :: rest := by
  induction items with
  | nil => simp [afterBoundary] at h
  | cons x xs ih =>
    cases x with
    | boundary => exact ⟨[], by simpa [afterBoundary] using h⟩
    | beat p =>
      obtain ⟨d, hd⟩ := ih h
      exact ⟨.beat p :: d, by simp [hd]⟩

/-- The two ends of a discard (R224): the boundary is found and the frame is over, or it is not and the
discard waits. -/
theorem State.discardFrame_cases (s : State) (count : Nat) :
    (∃ rest, afterBoundary s.input = some rest ∧
      s.discardFrame count = ({ s with input := rest }).endInError .long count) ∨
    (afterBoundary s.input = none ∧ s.discardFrame count = { s with input := [], discarding := true }) := by
  unfold State.discardFrame
  split
  · exact .inl ⟨_, ‹_›, rfl⟩
  · exact .inr ⟨‹_›, rfl⟩

theorem raiseFrameError_next {rest : List InItem} {cause : FrameCause} {count : Nat} :
    raiseFrameError s rest cause count = .next t ↔
      (s.statusFull = true ∧ t = s) ∨
      (s.statusFull = false ∧ t = ({ s with input := rest }).takeFrameError cause count) := by
  unfold raiseFrameError hold
  split <;> rename_i h <;> simp [h, eq_comm (b := t)]

theorem raiseFrameError_not_fault {rest : List InItem} {cause : FrameCause} {count : Nat} :
    raiseFrameError s rest cause count ≠ .fault f := by
  unfold raiseFrameError hold
  split <;> simp

theorem configRefusal_none {c : Config} : configRefusal c = none ↔ c.wf = true := by
  unfold configRefusal Config.wf
  split <;> rename_i h <;> simp [h]

/-- A running model records a fault once (R33, R231). -/
theorem State.settle_fault_running (s : State) (f : Fault) (h : ∀ g ∈ s.faultLog, g.stops = false) :
    s.settle (.fault f) = s.logFault f := by
  have : s.faultLog.any Fault.stops = false := by simpa using h
  simp [State.settle, this]

/-- A model that a recorded fault has stopped records nothing more (log entry 10). -/
theorem State.settle_fault_stopped (s : State) (f g : Fault) (hg : g ∈ s.faultLog) (h : g.stops = true) :
    s.settle (.fault f) = s := by
  have : s.faultLog.any Fault.stops = true := List.any_eq_true.2 ⟨g, hg, h⟩
  simp [State.settle, this]

/-- No stop stands exactly when nothing is marked and the configuration is well-formed. -/
theorem State.standing_none :
    s.standing = none ↔ s.refusal = none ∧ (∀ f ∈ s.faultLog, f.stops = false) ∧ s.cfg.wf = true := by
  unfold State.standing
  cases hr : s.refusal with
  | some w => simp
  | none =>
    cases hf : s.faultLog.find? Fault.stops with
    | some f =>
      have h1 := List.mem_of_find?_eq_some hf
      have h2 := List.find?_some hf
      simp only [reduceCtorEq, true_and, false_iff, not_and]
      intro h
      simp [h f h1] at h2
    | none =>
      rw [List.find?_eq_none] at hf
      simp only [Option.map_eq_none_iff, configRefusal_none, true_and]
      exact ⟨fun h => ⟨fun f hm => by simpa using hf f hm, h⟩, fun h => h.2⟩

/-- The fetch answers the decoded head of a trace, or what the decode table has due (R93, R94). -/
theorem State.fetch_trace {w : OpWord} {rest : List OpWord} (h : s.trace = w :: rest)
    (hd : decode w = some i) : s.fetch = .ok i := by
  simp [State.fetch, State.fetchWord, h, hd]

end Sys2Proof.Machine
end

