-- ==== Sys2Proof/Laws/Exec.lean ====
section
/-! SUPPORT. One inversion lemma per micro-operation: the one next state it can answer, and when. A proof
about `exec` starts from these and unfolds no meaning again. -/

namespace Sys2Proof.Machine

variable {s t : State}

theorem exec_frameStart_next : exec .frameStart s = .next t ↔ s.scheduled = some .frameStart ∧
    t = { s.clearLatches with
      phase := .scan, row := 0, col := 0, upc := 0,
      lb := s.cfg.drawLineBuffer s.draws, win := s.cfg.drawWindow s.draws,
      draws := s.draws + 1, trace := s.trace.tail } := by
  simp only [exec, execFrameStart, issue_next, Host.Outcome.next.injEq, eq_comm (b := t)]

theorem exec_gray_next : exec .gray s = .next t ↔ s.scheduled = some .gray ∧
    ∃ p, s.pIn = some p ∧ t = ({ s with gIn := some (grayOf p) }).retire := by
  simp only [exec, execGray, issue_next, readLatch_next, Host.Outcome.next.injEq, eq_comm (b := t)]

/-- The shape the four ingests share. -/
theorem ingest_next {i : Instr} {cols : List Nat} : ingest i cols s = .next t ↔
    s.scheduled = some i ∧ (∀ c ∈ cols, c < s.lb.length) ∧
    ∃ g, s.gIn = some g ∧ t = ({ s with lb := s.lb.writeNewest cols g }).retire := by
  simp only [ingest, issue_next, reachColumns_next, readLatch_next, Host.Outcome.next.injEq, eq_comm (b := t)]

theorem exec_ingestM_next : exec .ingestM s = .next t ↔ s.scheduled = some .ingestM ∧
    (∀ c ∈ [s.c0], c < s.lb.length) ∧
    ∃ g, s.gIn = some g ∧ t = ({ s with lb := s.lb.writeNewest [s.c0] g }).retire :=
  ingest_next

theorem exec_ingestL_next : exec .ingestL s = .next t ↔ s.scheduled = some .ingestL ∧
    (∀ c ∈ leftColumns, c < s.lb.length) ∧
    ∃ g, s.gIn = some g ∧ t = ({ s with lb := s.lb.writeNewest leftColumns g }).retire :=
  ingest_next

theorem exec_ingestR_next : exec .ingestR s = .next t ↔ s.scheduled = some .ingestR ∧
    (∀ c ∈ s.cfg.rightColumns, c < s.lb.length) ∧
    ∃ g, s.gIn = some g ∧ t = ({ s with lb := s.lb.writeNewest s.cfg.rightColumns g }).retire :=
  ingest_next

theorem exec_ingestLR_next : exec .ingestLR s = .next t ↔ s.scheduled = some .ingestLR ∧
    (∀ c ∈ bothColumns, c < s.lb.length) ∧
    ∃ g, s.gIn = some g ∧ t = ({ s with lb := s.lb.writeNewest bothColumns g }).retire :=
  ingest_next

theorem exec_winInsert_next : exec .winInsert s = .next t ↔ s.scheduled = some .winInsert ∧
    ∃ column, s.lb[s.c0]? = some column ∧ t = ({ s with win := s.win.shiftIn column }).retire := by
  simp only [exec, execWinInsert, issue_next]
  cases s.lb[s.c0]? <;> simp [eq_comm]

theorem exec_edge_next : exec .edge s = .next t ↔ s.scheduled = some .edge ∧
    t = ({ s with eOut := some (edgeOf s.cfg s.win) }).retire := by
  simp only [exec, execEdge, issue_next, Host.Outcome.next.injEq, eq_comm (b := t)]

theorem exec_emit_next : exec .emit s = .next t ↔ s.scheduled = some .emit ∧
    ∃ e, s.eOut = some e ∧
      t = ({ s with emissions := s.emissions ++ [(s.emissionIndex, e)] }).retire := by
  simp only [exec, execEmit, issue_next, readLatch_next, Host.Outcome.next.injEq, eq_comm (b := t)]

theorem exec_expand_next : exec .expand s = .next t ↔ s.scheduled = some .expand ∧
    ∃ e, s.eOut = some e ∧ t = ({ s with pOut := some (expandOf e) }).retire := by
  simp only [exec, execExpand, issue_next, readLatch_next, Host.Outcome.next.injEq, eq_comm (b := t)]

theorem exec_adaptOut_next : exec .adaptOut s = .next t ↔ s.scheduled = some .adaptOut ∧
    ((s.outputFull = true ∧ t = s) ∨
      (s.outputFull = false ∧ ∃ p, s.pOut = some p ∧ t = (s.outPush p).retire)) := by
  simp only [exec, execAdaptOut, issue_next, hold]
  split <;> rename_i h <;> simp [h, readLatch_next, eq_comm (b := t)]

theorem exec_topFixup_next : exec .topFixup s = .next t ↔ s.scheduled = some .topFixup ∧
    (∀ c ∈ [s.c0], c < s.lb.length) ∧ t = ({ s with lb := s.lb.update s.c0 Cells.seed }).retire := by
  simp only [exec, execTopFixup, issue_next, reachColumns_next, Host.Outcome.next.injEq, eq_comm (b := t)]

theorem exec_rowShift_next : exec .rowShift s = .next t ↔ s.scheduled = some .rowShift ∧
    (∀ c ∈ [s.c0], c < s.lb.length) ∧ t = ({ s with lb := s.lb.update s.c0 Cells.age }).retire := by
  simp only [exec, execRowShift, issue_next, reachColumns_next, Host.Outcome.next.injEq, eq_comm (b := t)]

theorem exec_advance_next : exec .advance s = .next t ↔ s.scheduled = some .advance ∧
    t = ({ s.clearLatches with upc := 0, trace := s.trace.tail }).nextPosition := by
  simp only [exec, execAdvance, issue_next, Host.Outcome.next.injEq, eq_comm (b := t)]

/-- ADAPT_IN: the queue is empty and it holds; a beat is taken; or BOUNDARY raises FRAME_SHORT (or holds
on a full status queue). -/
theorem exec_adaptIn_next : exec .adaptIn s = .next t ↔ s.scheduled = some .adaptIn ∧
    ((s.input = [] ∧ t = s) ∨
      (∃ p rest, s.input = .beat p :: rest ∧ t = ({ s with input := rest, pIn := some p }).retire) ∨
      (∃ rest, s.input = .boundary :: rest ∧ s.statusFull = true ∧ t = s) ∨
      (∃ rest, s.input = .boundary :: rest ∧ s.statusFull = false ∧
        t = ({ s with input := rest }).takeFrameError .short s.nIn)) := by
  simp only [exec, execAdaptIn, issue_next, hold]
  rcases h : s.input with _ | ⟨x, rest⟩
  · simp [eq_comm (b := t)]
  · cases x with
    | beat p => simp [eq_comm (b := t)]
    | boundary => simp [raiseFrameError_next]

/-- FRAME_END: a waiting discard goes on; the queue is empty, or the status queue full, and it holds;
BOUNDARY ends the frame; or a pixel raises FRAME_LONG. -/
theorem exec_frameEnd_next : exec .frameEnd s = .next t ↔ s.scheduled = some .frameEnd ∧
    ((s.discarding = true ∧ t = s.discardFrame s.cfg.npix) ∨
      (s.discarding = false ∧ s.input = [] ∧ t = s) ∨
      (s.discarding = false ∧ s.input ≠ [] ∧ s.statusFull = true ∧ t = s) ∨
      (∃ rest, s.discarding = false ∧ s.input = .boundary :: rest ∧ s.statusFull = false ∧
        t = (({ s with input := rest }).statusPush .ok).endFrame) ∨
      (∃ p rest, s.discarding = false ∧ s.input = .beat p :: rest ∧ s.statusFull = false ∧
        t = ({ s with input := rest }).takeFrameError .long s.cfg.npix)) := by
  simp only [exec, execFrameEnd, issue_next, hold]
  cases hd : s.discarding with
  | true => simp [eq_comm (b := t)]
  | false =>
    rcases h : s.input with _ | ⟨x, rest⟩
    · simp [eq_comm (b := t)]
    · cases x with
      | beat p => simp [raiseFrameError_next, hd]
      | boundary => cases hf : s.statusFull <;> simp [eq_comm (b := t)]

/-- An operation that answers a next state was due (R93). -/
theorem exec_next_scheduled {i : Instr} (h : exec i s = .next t) : s.scheduled = some i := by
  cases i <;> revert h
  case frameStart => exact fun h => (exec_frameStart_next.1 h).1
  case adaptIn => exact fun h => (exec_adaptIn_next.1 h).1
  case gray => exact fun h => (exec_gray_next.1 h).1
  case ingestM => exact fun h => (exec_ingestM_next.1 h).1
  case ingestL => exact fun h => (exec_ingestL_next.1 h).1
  case ingestR => exact fun h => (exec_ingestR_next.1 h).1
  case ingestLR => exact fun h => (exec_ingestLR_next.1 h).1
  case winInsert => exact fun h => (exec_winInsert_next.1 h).1
  case edge => exact fun h => (exec_edge_next.1 h).1
  case emit => exact fun h => (exec_emit_next.1 h).1
  case expand => exact fun h => (exec_expand_next.1 h).1
  case adaptOut => exact fun h => (exec_adaptOut_next.1 h).1
  case topFixup => exact fun h => (exec_topFixup_next.1 h).1
  case rowShift => exact fun h => (exec_rowShift_next.1 h).1
  case advance => exact fun h => (exec_advance_next.1 h).1
  case frameEnd => exact fun h => (exec_frameEnd_next.1 h).1

/-- What a step that answers a next state did: nothing stood in the way, and it ran one micro-operation. -/
theorem step_next (h : step s = .next t) :
    s.standing = none ∧ ∃ i, s.fetch = .ok i ∧ exec i s = .next t := by
  unfold step at h
  split at h
  · rename_i stop hs
    subst h
    unfold State.standing at hs
    split at hs
    · cases hs
    · split at hs
      · cases hs
      · rw [Option.map_eq_some_iff] at hs
        obtain ⟨_, _, h⟩ := hs
        cases h
  · rename_i hs
    split at h
    · cases h
    · exact ⟨hs, _, ‹_›, h⟩

end Sys2Proof.Machine
end

