-- ==== Sys2Proof/Laws/Sequencer.lean ====
section
/-! SUPPORT. What the decode table schedules, said once for all sixteen micro-operations. -/

namespace Sys2Proof

/-- The first index after a position's input stage (R90). -/
abbrev Config.emitFrom (c : Config) (row : Nat) : Nat := if row < c.h then 3 else 0

/-- The first index after a position's emit stage (R90). -/
abbrev Config.shiftFrom (c : Config) (row : Nat) : Nat := c.emitFrom row + if 2 < row then 5 else 0

/-- Which micro-operation stands at which index of a position's sequence. -/
theorem Config.opsAt_getElem? (c : Config) (row col k : Nat) (i : Instr) :
    (c.opsAt row col)[k]? = some i ↔
      (row < c.h ∧ (k = 0 ∧ i = .adaptIn ∨ k = 1 ∧ i = .gray ∨ k = 2 ∧ i = c.ingestAt col)) ∨
      (2 < row ∧ (k = c.emitFrom row ∧ i = .winInsert ∨ k = c.emitFrom row + 1 ∧ i = .edge ∨
        k = c.emitFrom row + 2 ∧ i = .emit ∨ k = c.emitFrom row + 3 ∧ i = .expand ∨
        k = c.emitFrom row + 4 ∧ i = .adaptOut)) ∨
      (row = 0 ∧ k = c.emitFrom row ∧ i = .topFixup) ∨
      (0 < row ∧ k = c.shiftFrom row ∧ i = .rowShift) ∨
      (k = c.shiftFrom row + 1 ∧ i = .advance) := by
  unfold Config.opsAt Config.inputStage emitStage Config.shiftFrom Config.emitFrom
  rw [Config.OFFSET_eq]
  rcases Nat.eq_zero_or_pos row with rfl | h3
  · by_cases h1 : 0 < c.h <;> simp only [h1, if_true, if_false, Nat.not_lt_zero]
    · rcases k with _ | _ | _ | _ | _ | k <;> simp [eq_comm]
    · rcases k with _ | _ | k <;> simp [eq_comm]
  · have h0 : row ≠ 0 := by omega
    by_cases h1 : row < c.h <;> by_cases h2 : 2 < row <;>
      simp only [h0, h1, h2, h3, if_true, if_false]
    · rcases k with _ | _ | _ | _ | _ | _ | _ | _ | _ | _ | k <;> simp [eq_comm]
    · rcases k with _ | _ | _ | _ | _ | k <;> simp [eq_comm]
    · rcases k with _ | _ | _ | _ | _ | _ | _ | k <;> simp [eq_comm]
    · rcases k with _ | _ | k <;> simp [eq_comm]

/-- A position's sequence is never longer than its parts, and ADVANCE is its last operation (R60, R90). -/
theorem Config.length_opsAt (c : Config) (row col : Nat) :
    (c.opsAt row col).length = c.shiftFrom row + 2 := by
  unfold Config.opsAt Config.inputStage emitStage Config.shiftFrom Config.emitFrom
  rw [Config.OFFSET_eq]
  split_ifs <;> simp

namespace Machine

/-- What is due in SCAN is what stands at the index (R36). -/
theorem State.scheduled_scan {s : State} (h : s.phase = .scan) :
    s.scheduled = (s.cfg.opsAt s.row s.col)[s.upc]? := by
  simp [State.scheduled, h]

/-- FRAME_START is due exactly in IDLE (R200). -/
theorem State.scheduled_frameStart {s : State} : s.scheduled = some .frameStart ↔ s.phase = .idle := by
  unfold State.scheduled
  cases s.phase <;> simp [Config.opsAt_getElem?]
  unfold Config.ingestAt
  split_ifs <;> simp

/-- FRAME_END is due exactly in FINISH (R201). -/
theorem State.scheduled_frameEnd {s : State} : s.scheduled = some .frameEnd ↔ s.phase = .finish := by
  unfold State.scheduled
  cases s.phase <;> simp [Config.opsAt_getElem?]
  unfold Config.ingestAt
  split_ifs <;> simp

/-- Every other operation is due in SCAN alone, at its index (R36, R90). -/
theorem State.scheduled_other {s : State} {i : Instr} (h1 : i ≠ .frameStart) (h2 : i ≠ .frameEnd) :
    s.scheduled = some i ↔ s.phase = .scan ∧ (s.cfg.opsAt s.row s.col)[s.upc]? = some i := by
  unfold State.scheduled
  cases s.phase <;> simp [h1.symm, h2.symm]

end Machine

end Sys2Proof
end

