-- ==== Sys2Proof/Laws/Cases.lean ====
section
/-! SUPPORT. What a step can do, said once over all operations, and where a position stands: what has
run, what is still to come (R36, R90). -/

namespace Sys2Proof

/-- The ingest variant of any column, with the case it is for (R91). -/
theorem Config.ingestAt_cases (c : Config) (col : Nat) :
    (c.ingestAt col = .ingestLR ∧ col = 0 ∧ c.w ≤ 1) ∨
    (c.ingestAt col = .ingestL ∧ col = 0 ∧ 2 ≤ c.w) ∨
    (c.ingestAt col = .ingestR ∧ 0 < col ∧ col = c.w - 1) ∨
    (c.ingestAt col = .ingestM ∧ 0 < col ∧ col ≠ c.w - 1) := by
  unfold Config.ingestAt
  split_ifs <;> simp <;> omega

namespace Machine

/-- The three outcomes of the move to the next position (R129). -/
theorem State.nextPosition_cases (s : State) :
    (s.col + 1 < s.cfg.w ∧ s.nextPosition = { s with col := s.col + 1 }) ∨
    (¬ s.col + 1 < s.cfg.w ∧ s.row + 1 < s.cfg.h + 3 ∧
      s.nextPosition = { s with row := s.row + 1, col := 0 }) ∨
    (¬ s.col + 1 < s.cfg.w ∧ ¬ s.row + 1 < s.cfg.h + 3 ∧
      s.nextPosition = { s with phase := .finish }) := by
  unfold State.nextPosition; simp only [Config.rows_eq]; split_ifs <;> simp_all

/-- EVERYTHING A MICRO-OPERATION CAN DO: when `exec` answers a next state, the operation was due and the
state is one of these, field by field; the holds are the cases `t = s`. -/
theorem exec_next_cases {i : Instr} {s t : State} (h : exec i s = .next t) : s.scheduled = some i ∧
   ((i = .frameStart ∧ t = { s with
        phase := .scan, row := 0, col := 0, upc := 0, lb := s.cfg.drawLineBuffer s.draws,
        win := s.cfg.drawWindow s.draws, pIn := none, gIn := none, eOut := none, pOut := none,
        draws := s.draws + 1, trace := s.trace.tail }) ∨
    (i = .gray ∧ ∃ p, s.pIn = some p ∧ t = { s with
        gIn := some (grayOf p), upc := s.upc + 1, trace := s.trace.tail }) ∨
    (∃ cols g,
      (i = .ingestM ∧ cols = [s.col + 2] ∨ i = .ingestL ∧ cols = leftColumns ∨
        i = .ingestR ∧ cols = s.cfg.rightColumns ∨ i = .ingestLR ∧ cols = bothColumns) ∧
      (∀ c ∈ cols, c < s.lb.length) ∧ s.gIn = some g ∧ t = { s with
        lb := s.lb.writeNewest cols g, upc := s.upc + 1, trace := s.trace.tail }) ∨
    (i = .winInsert ∧ ∃ column, s.lb[s.col + 2]? = some column ∧ t = { s with
        win := s.win.shiftIn column, upc := s.upc + 1, trace := s.trace.tail }) ∨
    (i = .edge ∧ t = { s with
        eOut := some (edgeOf s.cfg s.win), upc := s.upc + 1, trace := s.trace.tail }) ∨
    (i = .emit ∧ ∃ e, s.eOut = some e ∧ t = { s with
        emissions := s.emissions ++ [(s.emissionIndex, e)], upc := s.upc + 1,
        trace := s.trace.tail }) ∨
    (i = .expand ∧ ∃ e, s.eOut = some e ∧ t = { s with
        pOut := some (expandOf e), upc := s.upc + 1, trace := s.trace.tail }) ∨
    (i = .adaptOut ∧ s.outputFull = true ∧ t = s) ∨
    (i = .adaptOut ∧ s.outputFull = false ∧ ∃ p, s.pOut = some p ∧ t = { s with
        output := s.output ++ [p], upc := s.upc + 1, trace := s.trace.tail }) ∨
    (i = .topFixup ∧ s.col + 2 < s.lb.length ∧ t = { s with
        lb := s.lb.update (s.col + 2) Cells.seed, upc := s.upc + 1, trace := s.trace.tail }) ∨
    (i = .rowShift ∧ s.col + 2 < s.lb.length ∧ t = { s with
        lb := s.lb.update (s.col + 2) Cells.age, upc := s.upc + 1, trace := s.trace.tail }) ∨
    (i = .advance ∧ s.col + 1 < s.cfg.w ∧ t = { s with
        col := s.col + 1, pIn := none, gIn := none, eOut := none, pOut := none, upc := 0,
        trace := s.trace.tail }) ∨
    (i = .advance ∧ ¬ s.col + 1 < s.cfg.w ∧ s.row + 1 < s.cfg.h + 3 ∧ t = { s with
        row := s.row + 1, col := 0, pIn := none, gIn := none, eOut := none, pOut := none, upc := 0,
        trace := s.trace.tail }) ∨
    (i = .advance ∧ ¬ s.col + 1 < s.cfg.w ∧ ¬ s.row + 1 < s.cfg.h + 3 ∧ t = { s with
        phase := .finish, pIn := none, gIn := none, eOut := none, pOut := none, upc := 0,
        trace := s.trace.tail }) ∨
    (i = .adaptIn ∧ (s.input = [] ∨ s.input.head? = some .boundary ∧ s.statusFull = true) ∧ t = s) ∨
    (i = .adaptIn ∧ ∃ p rest, s.input = .beat p :: rest ∧ t = { s with
        input := rest, pIn := some p, upc := s.upc + 1, trace := s.trace.tail }) ∨
    (i = .adaptIn ∧ ∃ rest, s.input = .boundary :: rest ∧ s.statusFull = false ∧ t = { s with
        input := rest, status := s.status ++ [.frameShort], pIn := none, gIn := none, eOut := none,
        pOut := none, phase := .idle, discarding := false,
        faultLog := s.faultLog ++ [.frameError .short s.nIn], trace := s.trace.tail }) ∨
    (i = .frameEnd ∧ (s.discarding = false ∧ (s.input = [] ∨ s.statusFull = true)) ∧ t = s) ∨
    (i = .frameEnd ∧ s.discarding = false ∧ s.statusFull = false ∧
      ∃ rest, s.input = .boundary :: rest ∧ t = { s with
        input := rest, status := s.status ++ [.ok], phase := .idle, discarding := false,
        trace := s.trace.tail }) ∨
    (i = .frameEnd ∧ s.discarding = false ∧ s.statusFull = false ∧
      ∃ d rest, s.input = d ++ .boundary :: rest ∧ s.input.head? ≠ some .boundary ∧ t = { s with
        input := rest, status := s.status ++ [.frameLong], pIn := none, gIn := none, eOut := none,
        pOut := none, phase := .idle, discarding := false,
        faultLog := s.faultLog ++ [.frameError .long s.cfg.npix], trace := s.trace.tail }) ∨
    (i = .frameEnd ∧ s.discarding = false ∧ s.statusFull = false ∧ s.input ≠ [] ∧
      afterBoundary s.input = none ∧ t = { s with
        input := [], status := s.status ++ [.frameLong], discarding := true }) ∨
    (i = .frameEnd ∧ s.discarding = true ∧ ∃ d rest, s.input = d ++ .boundary :: rest ∧ t = { s with
        input := rest, pIn := none, gIn := none, eOut := none, pOut := none, phase := .idle,
        discarding := false, faultLog := s.faultLog ++ [.frameError .long s.cfg.npix],
        trace := s.trace.tail }) ∨
    (i = .frameEnd ∧ s.discarding = true ∧ afterBoundary s.input = none ∧ t = { s with
        input := [] })) := by
  refine ⟨exec_next_scheduled h, ?_⟩
  cases i
  case frameStart => left; exact ⟨rfl, (exec_frameStart_next.1 h).2⟩
  case gray => right; left; exact ⟨rfl, (exec_gray_next.1 h).2⟩
  case ingestM => obtain ⟨_, h1, g, h2, h3⟩ := exec_ingestM_next.1 h; right; right; left; exact ⟨_, g,
    .inl ⟨rfl, rfl⟩, h1, h2, h3⟩
  case ingestL => obtain ⟨_, h1, g, h2, h3⟩ := exec_ingestL_next.1 h; right; right; left; exact ⟨_, g,
    .inr (.inl ⟨rfl, rfl⟩), h1, h2, h3⟩
  case ingestR => obtain ⟨_, h1, g, h2, h3⟩ := exec_ingestR_next.1 h; right; right; left; exact ⟨_, g,
    .inr (.inr (.inl ⟨rfl, rfl⟩)), h1, h2, h3⟩
  case ingestLR => obtain ⟨_, h1, g, h2, h3⟩ := exec_ingestLR_next.1 h; right; right; left; exact ⟨_,
    g, .inr (.inr (.inr ⟨rfl, rfl⟩)), h1, h2, h3⟩
  case winInsert => obtain ⟨_, c, h1, h2⟩ := exec_winInsert_next.1 h; iterate 3 right
                    left; exact ⟨rfl, c, h1, h2⟩
  case edge => iterate 4 right
               left; exact ⟨rfl, (exec_edge_next.1 h).2⟩
  case emit => iterate 5 right
               left; exact ⟨rfl, (exec_emit_next.1 h).2⟩
  case expand => iterate 6 right
                 left; exact ⟨rfl, (exec_expand_next.1 h).2⟩
  case adaptOut =>
    obtain ⟨_, ⟨h1, h2⟩ | ⟨h1, h2⟩⟩ := exec_adaptOut_next.1 h
    · iterate 7 right
      left; exact ⟨rfl, h1, h2⟩
    · iterate 8 right
      left; exact ⟨rfl, h1, h2⟩
  case topFixup => obtain ⟨_, h1, h2⟩ := exec_topFixup_next.1 h; iterate 9 right
                   left; exact ⟨rfl, h1 _ (by simp [State.c0]), h2⟩
  case rowShift => obtain ⟨_, h1, h2⟩ := exec_rowShift_next.1 h; iterate 10 right
                   left; exact ⟨rfl, h1 _ (by simp [State.c0]), h2⟩
  case advance =>
    obtain ⟨_, h2⟩ := exec_advance_next.1 h
    obtain ⟨h1, h3⟩ | ⟨h1, h1', h3⟩ | ⟨h1, h1',
      h3⟩ := State.nextPosition_cases ({ s.clearLatches with upc := 0, trace := s.trace.tail })
    · iterate 11 right
      left; exact ⟨rfl, h1, h2.trans h3⟩
    · iterate 12 right
      left; exact ⟨rfl, h1, h1', h2.trans h3⟩
    · iterate 13 right
      left; exact ⟨rfl, h1, h1', h2.trans h3⟩
  case adaptIn =>
    obtain ⟨_, ⟨h1, h2⟩ | ⟨p, r, h1, h2⟩ | ⟨r, h1, h1', h2⟩ | ⟨r, h1, h1', h2⟩⟩ := exec_adaptIn_next.1 h
    · iterate 14 right
      left; exact ⟨rfl, .inl h1, h2⟩
    · iterate 15 right
      left; exact ⟨rfl, p, r, h1, h2⟩
    · iterate 14 right
      left; exact ⟨rfl, .inr ⟨by simp [h1], h1'⟩, h2⟩
    · iterate 16 right
      left; exact ⟨rfl, r, h1, h1', h2⟩
  case frameEnd =>
    iterate 17 right
    obtain ⟨_, ⟨h1, h2⟩ | ⟨h0, h1, h2⟩ | ⟨h0, h1, h1', h2⟩ | ⟨r, h0, h1, h1', h2⟩ | ⟨p, r, h0, h1,
      h1', h2⟩⟩ := exec_frameEnd_next.1 h
    · obtain ⟨r, h3, h4⟩ | ⟨h3, h4⟩ := s.discardFrame_cases s.cfg.npix
      · obtain ⟨d, hd⟩ := afterBoundary_some h3
        iterate 4 right
        left; exact ⟨rfl, h1, d, r, hd, h2.trans h4⟩
      · iterate 5 right
        exact ⟨rfl, h1, h3, by rw [h2, h4, ← h1]⟩
    · left; exact ⟨rfl, ⟨h0, .inl h1⟩, h2⟩
    · left; exact ⟨rfl, ⟨h0, .inr h1'⟩, h2⟩
    · right; left; exact ⟨rfl, h0, h1', r, h1, h2⟩
    · obtain ⟨r', h3, h4⟩ | ⟨h3,
      h4⟩ := State.discardFrame_cases (({ s with input := r }).statusPush FrameCause.long.status) s.cfg.npix
      · obtain ⟨d, hd⟩ := afterBoundary_some h3
        right; right; left
        refine ⟨rfl, h0, h1', .beat p :: d, r', ?_, by simp [h1], h2.trans h4⟩
        rw [h1]; simpa using hd
      · right; right; right; left
        refine ⟨rfl, h0, h1', by simp [h1], ?_, h2.trans h4⟩
        rw [h1]; exact h3

/-- Only ADVANCE is the last operation of a position (R90). -/
theorem State.more_to_come {s : State} {i : Instr} (hs : s.scheduled = some i) (hp : s.phase = .scan)
    (hi : i ≠ .advance) : s.upc + 1 < (s.cfg.opsAt s.row s.col).length := by
  rw [State.scheduled_scan hp] at hs
  have hlt : s.upc < (s.cfg.opsAt s.row s.col).length := by
    by_contra h
    rw [List.getElem?_eq_none (by omega)] at hs
    cases hs
  by_contra h
  have hl := s.cfg.length_opsAt s.row s.col
  have hu : s.upc = s.cfg.shiftFrom s.row + 1 := by omega
  have := (s.cfg.opsAt_getElem? s.row s.col s.upc .advance).2 (by simp [hu])
  rw [hs] at this
  exact hi (by simpa using this)

/-- An operation of a position that has run is added to those performed there (R36). -/
theorem State.performed_retired {s t : State} {i : Instr} (hs : s.scheduled = some i)
    (hp : s.phase = .scan) (h1 : t.phase = .scan) (h2 : t.cfg = s.cfg) (h3 : t.row = s.row)
    (h4 : t.col = s.col) (h5 : t.upc = s.upc + 1) : t.performed = s.performed ++ [i] := by
  rw [State.scheduled_scan hp] at hs
  simp only [State.performed, h1, hp, h2, h3, h4, h5, List.take_add_one, hs]
  rfl

/-- What stands before the index has been performed (R36). -/
theorem State.performed_before {s : State} {j : Instr} {k : Nat} (hp : s.phase = .scan)
    (hk : (s.cfg.opsAt s.row s.col)[k]? = some j) (hlt : k < s.upc) : j ∈ s.performed := by
  simp only [State.performed, hp]
  rw [List.mem_take_iff_getElem]
  have hl : k < (s.cfg.opsAt s.row s.col).length := by
    by_contra h
    rw [List.getElem?_eq_none (by omega)] at hk
    cases hk
  exact ⟨k, by omega, by rw [List.getElem?_eq_getElem hl] at hk; simpa using hk⟩

end Machine

end Sys2Proof
end

