-- ==== Sys2Proof/Laws/PerInstr.lean ====
section
/-! SUPPORT. Statements made of every micro-operation, one lemma per constructor. -/

namespace Sys2Proof.Laws

/-- The code of a well-formed micro-operation is one of the sixteen of R87's table, reads back as it,
and is the table word the host gives the decoder. -/
def CodeReadsBack.Statement (i : Instr) : Prop :=
  i.wf = true ∧ decode (encode i) = some i ∧ decodeTableWord 8 (encode i).toNat = some i

theorem CodeReadsBack.frameStart : CodeReadsBack.Statement .frameStart := ⟨rfl, rfl, rfl⟩
theorem CodeReadsBack.adaptIn : CodeReadsBack.Statement .adaptIn := ⟨rfl, rfl, rfl⟩
theorem CodeReadsBack.gray : CodeReadsBack.Statement .gray := ⟨rfl, rfl, rfl⟩
theorem CodeReadsBack.ingestM : CodeReadsBack.Statement .ingestM := ⟨rfl, rfl, rfl⟩
theorem CodeReadsBack.ingestL : CodeReadsBack.Statement .ingestL := ⟨rfl, rfl, rfl⟩
theorem CodeReadsBack.ingestR : CodeReadsBack.Statement .ingestR := ⟨rfl, rfl, rfl⟩
theorem CodeReadsBack.ingestLR : CodeReadsBack.Statement .ingestLR := ⟨rfl, rfl, rfl⟩
theorem CodeReadsBack.winInsert : CodeReadsBack.Statement .winInsert := ⟨rfl, rfl, rfl⟩
theorem CodeReadsBack.edge : CodeReadsBack.Statement .edge := ⟨rfl, rfl, rfl⟩
theorem CodeReadsBack.emit : CodeReadsBack.Statement .emit := ⟨rfl, rfl, rfl⟩
theorem CodeReadsBack.expand : CodeReadsBack.Statement .expand := ⟨rfl, rfl, rfl⟩
theorem CodeReadsBack.adaptOut : CodeReadsBack.Statement .adaptOut := ⟨rfl, rfl, rfl⟩
theorem CodeReadsBack.topFixup : CodeReadsBack.Statement .topFixup := ⟨rfl, rfl, rfl⟩
theorem CodeReadsBack.rowShift : CodeReadsBack.Statement .rowShift := ⟨rfl, rfl, rfl⟩
theorem CodeReadsBack.advance : CodeReadsBack.Statement .advance := ⟨rfl, rfl, rfl⟩
theorem CodeReadsBack.frameEnd : CodeReadsBack.Statement .frameEnd := ⟨rfl, rfl, rfl⟩

/-- R87, R88: no code is a reserved word. -/
def CodeIsNotReserved.Statement (i : Instr) : Prop :=
  1 ≤ (encode i).toNat ∧ (encode i).toNat ≤ 0x10

theorem CodeIsNotReserved.frameStart : CodeIsNotReserved.Statement .frameStart := ⟨by decide, by decide⟩
theorem CodeIsNotReserved.adaptIn : CodeIsNotReserved.Statement .adaptIn := ⟨by decide, by decide⟩
theorem CodeIsNotReserved.gray : CodeIsNotReserved.Statement .gray := ⟨by decide, by decide⟩
theorem CodeIsNotReserved.ingestM : CodeIsNotReserved.Statement .ingestM := ⟨by decide, by decide⟩
theorem CodeIsNotReserved.ingestL : CodeIsNotReserved.Statement .ingestL := ⟨by decide, by decide⟩
theorem CodeIsNotReserved.ingestR : CodeIsNotReserved.Statement .ingestR := ⟨by decide, by decide⟩
theorem CodeIsNotReserved.ingestLR : CodeIsNotReserved.Statement .ingestLR := ⟨by decide, by decide⟩
theorem CodeIsNotReserved.winInsert : CodeIsNotReserved.Statement .winInsert := ⟨by decide, by decide⟩
theorem CodeIsNotReserved.edge : CodeIsNotReserved.Statement .edge := ⟨by decide, by decide⟩
theorem CodeIsNotReserved.emit : CodeIsNotReserved.Statement .emit := ⟨by decide, by decide⟩
theorem CodeIsNotReserved.expand : CodeIsNotReserved.Statement .expand := ⟨by decide, by decide⟩
theorem CodeIsNotReserved.adaptOut : CodeIsNotReserved.Statement .adaptOut := ⟨by decide, by decide⟩
theorem CodeIsNotReserved.topFixup : CodeIsNotReserved.Statement .topFixup := ⟨by decide, by decide⟩
theorem CodeIsNotReserved.rowShift : CodeIsNotReserved.Statement .rowShift := ⟨by decide, by decide⟩
theorem CodeIsNotReserved.advance : CodeIsNotReserved.Statement .advance := ⟨by decide, by decide⟩
theorem CodeIsNotReserved.frameEnd : CodeIsNotReserved.Statement .frameEnd := ⟨by decide, by decide⟩

end Sys2Proof.Laws
end

