-- ==== Sys2Proof/Tests/Slice0.lean ====
section
/-! SUPPORT. Small tests, one step each, with expected values from 95_test_vectors.md (named V1–V62, P1–P6
below) or from the rule named; the smoke test of what is well-formed; and, for every obligation with
hypotheses, a named witness that meets them. The kernel EK of 95_test_vectors.md is illustrative: it is
used here only. -/

namespace Sys2Proof.Tests

open Sys2Proof.Machine

/- ------------------------------------------------------------------ helpers -/

/-- `KX` of the example kernel EK. -/
def ekX : Kernel :=
  ⟨⟨-1, -2, 0, 2, 1⟩, ⟨-4, -8, 0, 8, 4⟩, ⟨-6, -12, 0, 12, 6⟩, ⟨-4, -8, 0, 8, 4⟩, ⟨-1, -2, 0, 2, 1⟩⟩

/-- `KY`, the transpose of `KX`. -/
def ekY : Kernel :=
  ⟨⟨-1, -4, -6, -4, -1⟩, ⟨-2, -8, -12, -8, -2⟩, ⟨0, 0, 0, 0, 0⟩, ⟨2, 8, 12, 8, 2⟩, ⟨1, 4, 6, 4, 1⟩⟩

/-- A build of the given geometry and accumulator width with the example kernel, queues unbounded. -/
def buildWith (w h accW : Nat) : Config :=
  { w := w, h := h, kx := ekX, ky := ekY, accW := accW, outCap := none, statusCap := none
    source := 0 }

/-- A well-formed build. -/
def build (w h : Nat) : Config :=
  buildWith w h 17

/-- Five cells of one value. -/
def flat (v : Byte) : Cells :=
  ⟨v, v, v, v, v⟩

/-- A window of one value. -/
def flatWin (v : Byte) : Window :=
  ⟨flat v, flat v, flat v, flat v, flat v⟩

/-- A window of zeros but for one cell. -/
def oneCell (i j : Fin 5) (v : Byte) : Window :=
  Five.ofFn fun r => Five.ofFn fun k => if r = i ∧ k = j then v else 0

/-- In SCAN at a place in a frame, arrays of zeros, every latch unset, queues empty. -/
def scanAt (c : Config) (row col upc : Nat) : State :=
  { State.afterReset c 0 with
    phase := .scan, row := row, col := col, upc := upc
    lb := List.replicate c.lbw (flat 0), win := flatWin 0 }

/-- In FINISH of a frame, with the given input. -/
def finishAt (c : Config) (input : List InItem) : State :=
  { scanAt c (c.h + 2) (c.w - 1) 0 with phase := .finish, input := input }

/-- Between frames. -/
def idleAt (c : Config) : State :=
  { scanAt c 0 0 0 with phase := .idle }

/-- What a field holds in the next state, if the outcome is one. -/
def landing {α : Type} (r : Result) (field : State → α) : Option α :=
  match r with
  | .next t => some (field t)
  | _ => none

/-- The fault of an outcome. -/
def faultOf (r : Result) : Option Fault :=
  match r with
  | .fault f => some f
  | _ => none

/-- The refusal of an outcome. -/
def refusalOf (r : Result) : Option Refusal :=
  match r with
  | .refused why => some why
  | _ => none

/- --------------------------------------------------- well-formedness (smoke) -/

theorem test_wf_accepts : (build 6 4).wf = true := by decide
theorem test_wf_refuses_zero_width : (build 0 4).geometryOk = false := by decide
theorem test_wf_refuses_zero_height : (build 6 0).geometryOk = false := by decide
/-- V47: 16 bits meet the per-gradient bound and not the bound on the sum. -/
theorem test_wf_refuses_narrow_accumulator : (buildWith 6 4 16).accumulatorOk = false := by decide
theorem test_wf_refuses_no_accumulator : (buildWith 6 4 0).accumulatorOk = false := by decide
/-- V47. -/
theorem test_wf_17_bits : (buildWith 6 4 17).accumulatorOk = true := by decide
/-- The facts about EK: `Σ|KX| = Σ|KY| = 96`, `KernelZeroSum`. -/
theorem test_ek_facts :
    ekX.absSum = 96 ∧ ekY.absSum = 96 ∧ (build 6 4).kernelZeroSum = true := by decide
/-- Every instruction is well-formed: there is no ill-formed one (R86, R89). -/
theorem test_every_instruction_wf : Instr.wf .gray = true ∧ Instr.wf .frameEnd = true := by decide

/- ------------------------------------------------------------------- decode -/

/-- R87, one word or more of every family of the table, bit by bit. -/
theorem test_decode_families :
    decode 0b00011#5 = some .gray ∧ decode 0b00100#5 = some .ingestM ∧
    decode 0b00111#5 = some .ingestLR ∧ decode 0b01000#5 = some .winInsert ∧
    decode 0b01001#5 = some .edge ∧ decode 0b01010#5 = some .emit ∧
    decode 0b01011#5 = some .expand ∧ decode 0b00010#5 = some .adaptIn ∧
    decode 0b01101#5 = some .topFixup ∧ decode 0b01110#5 = some .rowShift ∧
    decode 0b01111#5 = some .advance ∧ decode 0b00001#5 = some .frameStart ∧
    decode 0b10000#5 = some .frameEnd := by decide
/-- R87, the remaining three. -/
theorem test_decode_rest :
    decode 0b00101#5 = some .ingestL ∧ decode 0b00110#5 = some .ingestR ∧
    decode 0b01100#5 = some .adaptOut := by decide
/-- V59. -/
theorem test_decode_reserved : decode 0x00#5 = none ∧ decode 0x11#5 = none ∧ decode 0x1F#5 = none := by
  decide
theorem test_table_word :
    decodeTableWord 8 0x03 = some .gray ∧ decodeTableWord 8 0x10 = some .frameEnd ∧
    decodeTableWord 8 0x23 = none := by decide
/-- A word placed is the word fetched. -/
theorem test_fetch_word :
    (State.reset.withFetchWord 8 0x04).fetch = .ok .ingestM ∧
    (State.reset.withFetchWord 8 0x10).fetch = .ok .frameEnd ∧
    (State.reset.withFetchWord 8 0x11).fetch = .error .reservedOp := ⟨rfl, rfl, rfl⟩
/-- From reset, the word placed runs: ADAPT_IN and FRAME_END do not hold. -/
theorem test_placed_words_run :
    landing (step (State.reset.withFetchWord 8 0x02)) State.pIn = some (some ⟨0, 0, 0⟩) ∧
    landing (step (State.reset.withFetchWord 8 0x10)) State.status = some [.ok] ∧
    landing (step (State.reset.withFetchWord 8 0x07)) State.upc = some 3 := by decide
/-- V60. -/
theorem test_ops_V60 :
    encodeTrace ((build 6 4).opsAt 0 0) = [0x02, 0x03, 0x05, 0x0D, 0x0F] ∧
    encodeTrace ((build 6 4).opsAt 3 3) = [0x02, 0x03, 0x04, 0x08, 0x09, 0x0A, 0x0B, 0x0C, 0x0E, 0x0F] ∧
    encodeTrace ((build 6 4).opsAt 5 2) = [0x08, 0x09, 0x0A, 0x0B, 0x0C, 0x0E, 0x0F] ∧
    encodeTrace ((build 6 4).opsAt 1 5) = [0x02, 0x03, 0x06, 0x0E, 0x0F] := by decide
/-- V61. -/
theorem test_ops_V61 :
    encodeTrace ((build 1 2).opsAt 1 0) = [0x02, 0x03, 0x07, 0x0E, 0x0F] ∧
    encodeTrace ((build 1 2).opsAt 2 0) = [0x0E, 0x0F] := by decide
/-- P1's 18 codes. -/
theorem test_frame_program_P1 :
    encodeTrace (build 1 1).frameProgram =
      [0x01, 0x02, 0x03, 0x07, 0x0D, 0x0F, 0x0E, 0x0F, 0x0E, 0x0F,
       0x08, 0x09, 0x0A, 0x0B, 0x0C, 0x0E, 0x0F, 0x10] := by decide
/-- E1's count for `W = H = 2`. -/
theorem test_frame_program_length : (build 2 2).frameProgram.length = 54 := by decide
/-- R94's example line. -/
theorem test_position_text :
    positionText 3 0 [.winInsert, .edge] = "@3,0: WIN_INSERT EDGE" := by decide
/-- R94: R94's example with a comment; lower case and an unknown word are no mnemonics. -/
theorem test_read_trace :
    readTrace "@3,0: WIN_INSERT EDGE ; drain\n@3,1: ADVANCE".toList = some [.winInsert, .edge, .advance] ∧
    readTrace "edge".toList = none ∧ readTrace "@3: EDGE".toList = none := by decide
/-- R82: P1's beat `(200,100,50) = 0x3264C8`. -/
theorem test_pack : Rgb.pack ⟨200, 100, 50⟩ = 0x3264C8#24 ∧ Rgb.unpack 0x3264C8#24 = ⟨200, 100, 50⟩ := by
  decide

/- ------------------------------------------------------------ one step each -/

/-- V5, V10. -/
theorem test_gray :
    landing (exec .gray { scanAt (build 6 4) 0 0 1 with pIn := some ⟨200, 100, 50⟩ }) State.gIn
      = some (some 43) ∧ grayOf ⟨15, 16, 23⟩ = 5 := by decide
/-- V2, V3, V4. -/
theorem test_gray_range :
    grayOf ⟨255, 255, 255⟩ = 93 ∧ grayOf ⟨7, 7, 7⟩ = 0 ∧ grayOf ⟨8, 8, 8⟩ = 3 := by decide
/-- V13. -/
theorem test_ingest_m_V13 :
    landing (exec .ingestM { scanAt (build 6 4) 1 3 2 with gIn := some 40 }) State.lb
      = some ((List.replicate 10 (flat 0)).set 5 ⟨0, 0, 0, 0, 40⟩) := by decide
/-- V14. -/
theorem test_ingest_l_V14 :
    landing (exec .ingestL { scanAt (build 6 4) 0 0 2 with gIn := some 93 }) State.lb
      = some (List.replicate 3 ⟨0, 0, 0, 0, 93⟩ ++ List.replicate 7 (flat 0)) := by decide
/-- V15. -/
theorem test_ingest_r_V15 :
    landing (exec .ingestR { scanAt (build 6 4) 2 5 2 with gIn := some 7 }) State.lb
      = some (List.replicate 7 (flat 0) ++ List.replicate 3 ⟨0, 0, 0, 0, 7⟩) := by decide
/-- V17. -/
theorem test_ingest_r_V17 :
    landing (exec .ingestR { scanAt (build 2 4) 1 1 2 with gIn := some 9 }) State.lb
      = some (List.replicate 3 (flat 0) ++ List.replicate 3 ⟨0, 0, 0, 0, 9⟩) := by decide
/-- V16. -/
theorem test_ingest_lr_V16 :
    landing (exec .ingestLR { scanAt (build 1 4) 0 0 2 with gIn := some 43 }) State.lb
      = some (List.replicate 5 ⟨0, 0, 0, 0, 43⟩) := by decide
/-- V18. -/
theorem test_win_insert_V18 :
    landing (exec .winInsert { scanAt (build 6 1) 3 0 0 with
        lb := List.replicate 10 ⟨90, 91, 92, 93, 94⟩
        win := Five.ofFn fun r => Five.ofFn fun k => BitVec.ofNat 8 (10 * r.val + k.val) }) State.win
      = some ⟨⟨1, 2, 3, 4, 90⟩, ⟨11, 12, 13, 14, 91⟩, ⟨21, 22, 23, 24, 92⟩, ⟨31, 32, 33, 34, 93⟩,
          ⟨41, 42, 43, 44, 94⟩⟩ := by decide
/-- V41 and V42: the threshold is strict. -/
theorem test_edge_threshold :
    landing (exec .edge { scanAt (build 6 1) 3 0 1 with win := oneCell 0 0 100 }) State.eOut = some (some 0) ∧
    landing (exec .edge { scanAt (build 6 1) 3 0 1 with win := oneCell 0 0 101 }) State.eOut
      = some (some 255) := by decide
/-- V43, V46: a wrong cell or a flipped kernel would show; `(Gx, Gy) = (200, −200)`. -/
theorem test_edge_cells :
    magnitude (build 6 1) (oneCell 2 2 255) = 0 ∧ gradient ekX (oneCell 0 4 200) = 200 ∧
    gradient ekY (oneCell 0 4 200) = -200 := by decide
/-- V21. -/
theorem test_emit_V21 :
    landing (exec .emit { scanAt (build 6 4) 4 2 2 with eOut := some 255 }) State.emissions
      = some [(8, 255)] := by decide
/-- V22. -/
theorem test_emit_V22 :
    landing (exec .emit { scanAt (build 6 4) 6 5 2 with eOut := some 0 }) State.emissions
      = some [(23, 0)] := by decide
/-- V50: EXPAND copies any value. -/
theorem test_expand_V50 :
    landing (exec .expand { scanAt (build 6 1) 3 0 3 with eOut := some 93 }) State.pOut
      = some (some ⟨93, 93, 93⟩) := by decide
/-- V51. -/
theorem test_adapt_in_V51 :
    landing (exec .adaptIn { scanAt (build 6 4) 0 0 0 with input := [.beat ⟨200, 100, 50⟩, .boundary] })
      (fun t => (t.pIn, t.input)) = some (some ⟨200, 100, 50⟩, [.boundary]) := by decide
/-- V52. -/
theorem test_adapt_in_V52 :
    landing (exec .adaptIn { scanAt (build 6 4) 0 3 0 with input := [.boundary, .beat ⟨1, 1, 1⟩] })
      (fun t => (t.status, t.input, t.phase, t.faultLog))
      = some ([.frameShort], [.beat ⟨1, 1, 1⟩], .idle, [.frameError .short 3]) := by decide
/-- V54. -/
theorem test_adapt_out_V54 :
    landing (exec .adaptOut { scanAt (build 6 1) 3 0 4 with
        output := [⟨0, 0, 0⟩], pOut := some ⟨255, 255, 255⟩ }) State.output
      = some [⟨0, 0, 0⟩, ⟨255, 255, 255⟩] := by decide
/-- V25. -/
theorem test_top_fixup_V25 :
    landing (exec .topFixup { scanAt (build 1 1) 0 0 3 with lb := List.replicate 5 ⟨7, 8, 9, 6, 93⟩ })
      (fun t => (t.lb[2]?, t.lb[1]?)) = some (some (flat 93), some ⟨7, 8, 9, 6, 93⟩) := by decide
/-- V26; R257's wrong direction would give `[5, 5, 5, 5, 5]` (V29). -/
theorem test_row_shift_V26 :
    landing (exec .rowShift { scanAt (build 1 1) 1 0 0 with lb := List.replicate 5 ⟨1, 2, 3, 4, 5⟩ })
      (fun t => (t.lb[2]?, t.lb[3]?)) = some (some ⟨2, 3, 4, 5, 5⟩, some ⟨1, 2, 3, 4, 5⟩) := by decide
/-- V33. -/
theorem test_advance_V33 :
    landing (exec .advance { scanAt (build 6 4) 0 5 4 with gIn := some 1 })
      (fun t => (t.row, t.col, t.phase, t.gIn)) = some (1, 0, .scan, none) := by decide
/-- V34. -/
theorem test_advance_V34 :
    landing (exec .advance (scanAt (build 6 4) 6 5 6)) (fun t => (t.row, t.col, t.phase))
      = some (6, 5, .finish) := by decide
/-- V55. -/
theorem test_frame_start_V55 :
    landing (exec .frameStart { idleAt (build 6 4) with row := 6, col := 5 })
      (fun t => (t.phase, t.row, t.col, t.lb.length)) = some (.scan, 0, 0, 10) := by decide
/-- V56. -/
theorem test_frame_end_V56 :
    landing (exec .frameEnd (finishAt (build 6 4) [.boundary, .beat ⟨5, 5, 5⟩]))
      (fun t => (t.status, t.phase, t.input)) = some ([.ok], .idle, [.beat ⟨5, 5, 5⟩]) := by decide
/-- V57. -/
theorem test_frame_end_V57 :
    landing (exec .frameEnd (finishAt (build 6 4)
        [.beat ⟨9, 9, 9⟩, .beat ⟨7, 7, 7⟩, .boundary, .beat ⟨5, 5, 5⟩]))
      (fun t => (t.status, t.phase, t.input, t.faultLog))
      = some ([.frameLong], .idle, [.beat ⟨5, 5, 5⟩], [.frameError .long 24]) := by decide
/-- V53, V58: a hold changes nothing. -/
theorem test_holds :
    landing (exec .adaptIn (scanAt (build 6 4) 0 0 0)) id = some (scanAt (build 6 4) 0 0 0) ∧
    landing (exec .frameEnd (finishAt (build 6 4) [])) id = some (finishAt (build 6 4) []) :=
  ⟨rfl, rfl⟩
/-- V62: EMIT at (2, 0) in a trace; and V59's reserved word. -/
theorem test_trace_refusals :
    refusalOf (step { scanAt (build 6 4) 2 0 0 with trace := [0x0A] }) = some .outOfSequence ∧
    refusalOf (step { scanAt (build 6 4) 2 0 0 with trace := [0x11] }) = some .reservedOp := by decide
/-- R231: GRAY with `p_in` unset. -/
theorem test_latch_unset :
    faultOf (step (scanAt (build 6 4) 1 3 1)) = some (.latchUnset .gray 1 3) := by decide
/-- V47: the whole configuration is refused. -/
theorem test_config_refused :
    refusalOf (step (State.afterReset (buildWith 6 4 16) 0)) = some .accumulatorTooNarrow := by decide
/-- Both kinds of ill-formed at once: the geometry's reason (log entry 24, the model's choice). -/
theorem test_config_both_wrong :
    refusalOf (step (idleAt (buildWith 0 4 16))) = some .badGeometry := by decide
/-- V30, V31: the closed form of a line-buffer column. -/
theorem test_vertical_run :
    verticalRun (build 1 2) (fun y _ => if y = 0 then 10 else 20) (-1) 0 = ⟨10, 10, 20, 20, 20⟩ ∧
    verticalRun (build 1 1) (fun _ _ => 10) (-1) 0 = flat 10 := by decide

/- ---------------------------------------------------------------- witnesses -/

/-- A build whose output and status queues hold one item each. -/
def tight : Config :=
  { build 6 1 with outCap := some 1, statusCap := some 1 }

/-- ReservedWordsAreRefused: the reserved words at both ends of both ranges. -/
theorem witness_reserved :
    (∀ w ∈ ([0x00, 0x11, 0x1F] : List OpWord), w.toNat = 0 ∨ 0x11 ≤ w.toNat) ∧
    { idleAt (build 6 4) with trace := [0x11] }.Ready := by decide
/-- DecodeAndEncodeAgree, TraceFormReadsBack. -/
theorem witness_decode :
    Instr.wf .frameStart = true ∧ decode 0x01 = some .frameStart ∧ decode 0x10 = some .frameEnd ∧
    decodeTrace [0x01, 0x02] = some [.frameStart, .adaptIn] := by decide
/-- PositionDecodeTable: every row class of the table at its first and last row, every ingest variant. -/
theorem witness_table :
    (0 < (build 1 1).h ∧ (0 < 1 ∧ 1 ≤ 2 ∧ 1 < (build 6 4).h) ∧ (2 ≤ 2 ∧ 2 < (build 6 3).h) ∧
      (1 ≤ 2 ∧ (build 1 1).h ≤ 1) ∧ (build 1 2).h ≤ 2 ∧ (2 < 3 ∧ 3 < (build 6 4).h) ∧
      (2 < 3 ∧ (build 6 3).h ≤ 3)) ∧
    (build 1 1).ingestAt 0 = .ingestLR ∧ (build 2 1).ingestAt 0 = .ingestL ∧
    (build 2 1).ingestAt 1 = .ingestR ∧ (build 3 1).ingestAt 1 = .ingestM := by decide
/-- OperationCountsPerFrame, and its case split on `W`. -/
theorem witness_counts :
    (1 ≤ (build 1 1).w ∧ 1 ≤ (build 1 1).h ∧ (build 1 1).w = 1) ∧ 2 ≤ (build 2 1).w ∧
    (build 2 2).frameProgram.count .rowShift = 8 := by decide
/-- StepRunsTheIssuedInstruction, OutOfSequenceIsRefused: with a trace and without. -/
theorem witness_issue :
    { scanAt (build 6 4) 2 0 0 with trace := [0x0A] }.Ready ∧ decode 0x0A = some .emit ∧
    (scanAt (build 6 4) 2 0 0).scheduled ≠ some .emit ∧
    (scanAt (build 6 4) 2 0 0).trace = [] ∧ (scanAt (build 6 4) 2 0 0).scheduled = some .adaptIn := by
  decide
/-- GraySumsChannelEighths: its guard at the last row of the frame, a set latch and an unset one. -/
theorem witness_gray :
    ((build 6 4).opsAt 3 5)[1]? = some .gray ∧ (scanAt (build 6 4) 3 5 1).scheduled = some .gray ∧
    { scanAt (build 6 4) 3 5 1 with pIn := some ⟨0, 0, 0⟩ }.pIn = some ⟨0, 0, 0⟩ ∧
    (scanAt (build 6 4) 3 5 1).pIn = none := by decide
/-- GrayResultProperties. -/
theorem witness_gray_properties :
    (93 ≤ 93 ∧ (7#8).toNat < 8) ∧ (0#8).toNat ≤ (255#8).toNat := by decide
/-- IngestMStoresAnInteriorPixel. -/
theorem witness_ingest_m :
    (scanAt (build 3 1) 0 1 2).scheduled = some .ingestM ∧
    (scanAt (build 3 1) 0 1 2).lb.length = (build 3 1).w + 4 ∧ 1 < (build 3 1).w ∧
    { scanAt (build 3 1) 0 1 2 with gIn := some 0 }.gIn = some 0 ∧
    (scanAt (build 3 1) 0 1 2).gIn = none := by decide
/-- IngestLReplicatesIntoTheLeftMargin. -/
theorem witness_ingest_l :
    (scanAt (build 2 1) 0 0 2).scheduled = some .ingestL ∧
    (scanAt (build 2 1) 0 0 2).lb.length = (build 2 1).w + 4 ∧
    { scanAt (build 2 1) 0 0 2 with gIn := some 0 }.gIn = some 0 ∧
    (scanAt (build 2 1) 0 0 2).gIn = none := by decide
/-- IngestRReplicatesIntoTheRightMargin. -/
theorem witness_ingest_r :
    (scanAt (build 2 1) 0 1 2).scheduled = some .ingestR ∧
    (scanAt (build 2 1) 0 1 2).lb.length = (build 2 1).w + 4 ∧
    { scanAt (build 2 1) 0 1 2 with gIn := some 0 }.gIn = some 0 ∧
    (scanAt (build 2 1) 0 1 2).gIn = none := by decide
/-- IngestLRReplicatesBothWays. -/
theorem witness_ingest_lr :
    (scanAt (build 1 1) 0 0 2).scheduled = some .ingestLR ∧ 1 ≤ (build 1 1).w ∧
    (scanAt (build 1 1) 0 0 2).lb.length = (build 1 1).w + 4 ∧
    { scanAt (build 1 1) 0 0 2 with gIn := some 0 }.gIn = some 0 ∧
    (scanAt (build 1 1) 0 0 2).gIn = none := by decide
/-- WinInsertShiftsAndInserts, EdgeThresholdsTheGradient: in a row of the frame and in a drain row. -/
theorem witness_emit_stage :
    (scanAt (build 6 4) 3 5 3).scheduled = some .winInsert ∧
    (scanAt (build 6 4) 6 5 0).scheduled = some .winInsert ∧
    (scanAt (build 6 4) 6 5 0).lb.length = (build 6 4).w + 4 ∧ 5 < (build 6 4).w ∧
    (scanAt (build 6 4) 3 5 4).scheduled = some .edge ∧
    (scanAt (build 6 4) 6 5 1).scheduled = some .edge := by decide
/-- EmitRecordsTheEmissionIndex: set and unset latch; the first and the last emission. -/
theorem witness_emit :
    (scanAt (build 6 4) 6 5 2).scheduled = some .emit ∧
    { scanAt (build 6 4) 6 5 2 with eOut := some 255 }.eOut = some 255 ∧
    (scanAt (build 6 4) 6 5 2).eOut = none ∧
    (2 < 3 ∧ 3 < (build 6 4).h + 3 ∧ 0 < (build 6 4).w) ∧ 6 < (build 6 4).h + 3 := by decide
/-- TopFixupSeedsTheOlderDepths, RowShiftAgesOneColumn (prime, frame and drain rows),
AdvanceMovesInRasterOrder. -/
theorem witness_row_end :
    (scanAt (build 6 4) 0 5 3).scheduled = some .topFixup ∧
    (scanAt (build 6 4) 0 5 3).lb.length = (build 6 4).w + 4 ∧ 5 < (build 6 4).w ∧
    (scanAt (build 6 4) 1 0 3).scheduled = some .rowShift ∧
    (scanAt (build 6 4) 3 0 8).scheduled = some .rowShift ∧
    (scanAt (build 6 4) 6 0 5).scheduled = some .rowShift ∧
    (scanAt (build 6 4) 0 5 4).scheduled = some .advance ∧
    (scanAt (build 6 4) 6 5 6).scheduled = some .advance := by decide
/-- ColumnsOutsideTheLineBufferAreRefused: the first column in range at the last position, and a line buffer
one column too short for each kind of operation. -/
theorem witness_index_range :
    ((scanAt (build 6 4) 3 5 3).lb.length = (build 6 4).w + 4 ∧ 5 < (build 6 4).w) ∧
    { scanAt (build 6 4) 3 5 3 with lb := List.replicate 7 (flat 0) }.scheduled = some .winInsert ∧
    (List.replicate 7 (flat 0)).length ≤ 5 + 2 ∧ (List.replicate 2 (flat 0)).length ≤ 2 ∧
    (List.replicate 9 (flat 0)).length ≤ (build 6 4).w - 1 + 4 ∧ (List.replicate 4 (flat 0)).length ≤ 4 ∧
    (scanAt (build 6 4) 0 0 2).scheduled = some .ingestL ∧
    (scanAt (build 6 4) 0 5 2).scheduled = some .ingestR ∧
    (scanAt (build 1 4) 0 0 2).scheduled = some .ingestLR := by decide
/-- R55: refused, neither wrapped nor clamped. -/
theorem test_index_range :
    refusalOf (exec .winInsert { scanAt (build 6 4) 3 5 3 with lb := List.replicate 7 (flat 0) })
      = some .indexRange ∧
    refusalOf (exec .ingestR { scanAt (build 6 4) 0 5 2 with lb := List.replicate 9 (flat 0), gIn := some 1 })
      = some .indexRange := by decide
/-- ExpandReplicatesTheEdgeValue. -/
theorem witness_expand :
    (scanAt (build 6 1) 3 0 3).scheduled = some .expand ∧
    { scanAt (build 6 1) 3 0 3 with eOut := some 0 }.eOut = some 0 ∧
    (scanAt (build 6 1) 3 0 3).eOut = none := by decide
/-- AdaptInTakesTheNextPixel: empty queue, a beat, the boundary with room on the status queue. -/
theorem witness_adapt_in :
    (scanAt (build 6 4) 3 5 0).scheduled = some .adaptIn ∧ (scanAt (build 6 4) 3 5 0).input = [] ∧
    { scanAt (build 6 4) 3 5 0 with input := [.beat ⟨0, 0, 0⟩] }.input = .beat ⟨0, 0, 0⟩ :: [] ∧
    { scanAt (build 6 4) 3 5 0 with input := [.boundary] }.input = .boundary :: [] ∧
    (scanAt (build 6 4) 3 5 0).statusFull = false := by decide
/-- AdaptOutPushesTheOutputBeat: a full queue; room (bounded and unbounded) with the latch set and unset. -/
theorem witness_adapt_out :
    (scanAt tight 3 0 4).scheduled = some .adaptOut ∧ tight.outCap = some 1 ∧
    1 ≤ { scanAt tight 3 0 4 with output := [⟨0, 0, 0⟩] }.output.length ∧
    (∀ cap ∈ tight.outCap.toList, (scanAt tight 3 0 4).output.length < cap) ∧
    (build 6 1).outCap = none ∧
    { scanAt tight 3 0 4 with pOut := some ⟨0, 0, 0⟩ }.pOut = some ⟨0, 0, 0⟩ ∧
    (scanAt tight 3 0 4).pOut = none := by decide
/-- A full queue holds ADAPT_OUT, and a full status queue the end of the frame (R253). -/
theorem test_bounded_holds :
    landing (exec .adaptOut { scanAt tight 3 0 4 with
      output := [⟨0, 0, 0⟩], pOut := some ⟨255, 255, 255⟩ }) State.output = some [⟨0, 0, 0⟩] ∧
    landing (exec .frameEnd { finishAt tight [.boundary] with status := [.ok] })
      (fun t => (t.phase, t.status, t.input)) = some (.finish, [.ok], [.boundary]) := by decide
/-- FrameStartBeginsAFrame, FrameStartForgetsThePreviousFrame: two idle machines a frame apart. -/
theorem witness_frame_start :
    (idleAt (build 6 4)).phase = .idle ∧
    { idleAt (build 6 4) with row := 6, col := 5, win := flatWin 9 }.phase = .idle := by decide
/-- FrameEndReportsTheFrame: an empty queue, the boundary, a pixel. -/
theorem witness_frame_end :
    (finishAt (build 6 4) []).phase = .finish ∧ (finishAt (build 6 4) []).discarding = false ∧
    (finishAt (build 6 4) [.boundary]).statusFull = false ∧
    (finishAt (build 6 4) [.boundary]).input = .boundary :: [] ∧
    (finishAt (build 6 4) [.beat ⟨0, 0, 0⟩]).input = .beat ⟨0, 0, 0⟩ :: [] := by decide
/-- FrameLongDiscardsToTheBoundary: the four cases of the queue. -/
theorem witness_frame_long :
    (finishAt (build 6 4) [.beat ⟨0, 0, 0⟩, .boundary]).input
      = .beat ⟨0, 0, 0⟩ :: ([] : List Rgb).map InItem.beat ++ .boundary :: [] ∧
    (finishAt (build 6 4) [.beat ⟨0, 0, 0⟩]).input = .beat ⟨0, 0, 0⟩ :: ([] : List Rgb).map InItem.beat ∧
    { finishAt (build 6 4) [] with discarding := true }.input = ([] : List Rgb).map InItem.beat ∧
    { finishAt (build 6 4) [.boundary] with discarding := true }.input
      = ([] : List Rgb).map InItem.beat ++ .boundary :: [] := by decide
/-- The discard waits, and its end is a FrameError with no second status word (R224). -/
theorem test_discard_waits :
    landing (exec .frameEnd (finishAt (build 6 4) [.beat ⟨9, 9, 9⟩, .beat ⟨7, 7, 7⟩]))
      (fun t => (t.phase, t.discarding, t.input, t.status)) = some (.finish, true, [], [.frameLong]) ∧
    landing (exec .frameEnd { finishAt (build 6 4) [.beat ⟨7, 7, 7⟩, .boundary] with
        discarding := true, status := [.frameLong] })
      (fun t => (t.phase, t.discarding, t.status)) = some (.idle, false, [.frameLong]) := by decide
/-- AccumulatorNeverOverflows; and the two largest gradients it must hold (V45). -/
theorem witness_accumulator :
    (build 6 4).accumulatorOk = true ∧
    (gradientBits 17 ekX ⟨⟨0, 0, 0, 255, 255⟩, ⟨0, 0, 0, 255, 255⟩, ⟨0, 0, 0, 255, 255⟩,
      ⟨0, 0, 0, 255, 255⟩, ⟨0, 0, 0, 255, 255⟩⟩).toInt = 12240 := by decide
/-- IllFormedConfigurationIsRefused: each way a configuration can be ill-formed. -/
theorem witness_ill_formed :
    (idleAt (buildWith 6 4 16)).Clean ∧ (buildWith 6 4 16).geometryOk = true ∧
    2 ^ (16 - 1) ≤ 255 * (ekX.absSum + ekY.absSum) ∧
    (buildWith 6 4 0).accW = 0 ∧ 2 ^ (15 - 1) ≤ 255 * max ekX.absSum ekY.absSum ∧
    (idleAt (build 0 4)).Clean ∧ (build 0 4).w = 0 ∧ (build 6 0).h = 0 := by decide
/-- FlatWindowHasNoEdge, OddCornerKernelsGiveEvenMagnitudes: EK meets both premises on kernels. -/
theorem witness_kernel_properties :
    (∀ r k : Fin 5, ((flatWin 43).get r).get k = 43) ∧ (build 6 4).kernelZeroSum = true ∧
    (∀ i j : Fin 5, ((ekX.get i).get j % 2 = 1 ↔ (i = 0 ∨ i = 4) ∧ (j = 0 ∨ j = 4)) ∧
      ((ekY.get i).get j % 2 = 1 ↔ (i = 0 ∨ i = 4) ∧ (j = 0 ∨ j = 4))) := by decide
/-- OnlyTheNamedOperationsWriteEachField and the rules over `exec … = next`: steps that change a field. -/
theorem witness_writers :
    landing (exec .winInsert { scanAt (build 1 1) 3 0 0 with lb := List.replicate 5 (flat 1) })
      (fun t => decide (t.win ≠ flatWin 0)) = some true ∧
    landing (exec .frameStart (idleAt (build 6 4))) State.draws = some 2 ∧
    (idleAt (build 6 4)).draws = 1 ∧
    landing (exec .advance { scanAt (build 6 4) 0 5 4 with eOut := some 0 }) (fun t => (t.eOut, t.upc))
      = some (none, 0) ∧
    landing (exec .edge (scanAt (build 6 1) 3 0 1)) State.upc = some 2 ∧
    landing (exec .frameEnd { finishAt (build 6 4) [.boundary] with discarding := true }) State.discarding
      = some false := by
  decide
/-- LineBufferWritersReachOnlyTheirCells: a margin cell, an interior cell and an older depth change. -/
theorem witness_lb_writers :
    (1 ≤ (build 2 1).w ∧ 0 < (build 2 1).w) ∧
    landing (exec .ingestL { scanAt (build 2 1) 0 0 2 with gIn := some 5 })
      (fun t => (t.lb.cell 1 4, t.lb.cell 2 4)) = some (some 5, some 5) ∧
    (scanAt (build 2 1) 0 0 2).lb.cell 1 4 = some 0 ∧
    landing (exec .rowShift { scanAt (build 1 1) 1 0 0 with lb := List.replicate 5 ⟨1, 2, 3, 4, 5⟩ })
      (fun t => t.lb.cell 2 0) = some (some 2) := by decide
/-- The structural invariant in IDLE, in the middle of a position, and in FINISH with and without a
discard: PhaseTransitionsAreTheListedOnes, RasterIndexAdvancesByOne, OneStatusWordEndsAFrame,
StepKeepsTheStructuralInvariant, LegalSequenceNeverStops. -/
theorem witness_inv :
    (idleAt (build 6 4)).Inv ∧ (scanAt (build 6 4) 0 0 0).Inv ∧
    { scanAt (build 1 1) 3 0 2 with eOut := some 0 }.Inv ∧
    { scanAt (build 6 4) 6 5 6 with eOut := some 0, pOut := some ⟨0, 0, 0⟩ }.Inv ∧
    (finishAt (build 6 4) []).Inv ∧ { finishAt (build 6 4) [] with discarding := true }.Inv ∧
    (build 6 4).geometryOk = true ∧ (scanAt (build 6 4) 0 0 0).Ready ∧
    (scanAt (build 6 4) 0 0 0).trace = [] := by
  refine ⟨?_, ?_, ?_, ?_, ?_, ?_, ?_, ?_, ?_⟩ <;> decide
/-- PhaseTransitionsAreTheListedOnes: every transition of the list is taken. -/
theorem witness_phases :
    landing (exec .frameStart (idleAt (build 6 4))) State.phase = some .scan ∧
    landing (exec .advance { scanAt (build 6 4) 6 5 6 with eOut := some 0, pOut := some ⟨0, 0, 0⟩ })
      State.phase = some .finish ∧
    landing (exec .adaptIn { scanAt (build 6 4) 0 0 0 with input := [.boundary] }) State.phase
      = some .idle ∧
    landing (exec .frameEnd (finishAt (build 6 4) [.boundary])) State.phase = some .idle := by decide
/-- OnlyTheListedOperationsHold: each hold of the list is met. -/
theorem witness_holds :
    (scanAt (build 6 4) 0 0 0).scheduled = some .adaptIn ∧ (scanAt (build 6 4) 0 0 0).input = [] ∧
    { scanAt tight 0 0 0 with input := [.boundary], status := [.ok] }.statusFull = true ∧
    { scanAt tight 3 0 4 with output := [⟨0, 0, 0⟩] }.outputFull = true ∧
    (scanAt tight 3 0 4).scheduled = some .adaptOut ∧
    (finishAt tight []).scheduled = some .frameEnd := by decide
/-- QueuesAreFifoAndLogsAreSticky: a step in a row of the frame and one in the first drain row. -/
theorem witness_queues :
    landing (step { scanAt (build 6 4) 3 0 0 with input := [.boundary] }) State.input = some [] ∧
    (build 6 4).h ≤ { scanAt (build 6 4) 4 0 0 with input := [.boundary] }.row ∧
    landing (step { scanAt (build 6 4) 4 0 0 with input := [.boundary] }) State.input
      = some [.boundary] := by decide
/-- OneStatusWordEndsAFrame: a frame ends with a word, and a long one whose discard waits has its own. -/
theorem witness_status :
    landing (step (finishAt (build 6 4) [.boundary])) (fun t => (t.phase, t.status)) = some (.idle, [.ok]) ∧
    (finishAt (build 6 4) [.boundary]).Inv ∧ (finishAt (build 6 4) [.beat ⟨0, 0, 0⟩]).Inv ∧
    { finishAt (build 6 4) [.boundary] with discarding := true }.Inv ∧
    landing (step (finishAt (build 6 4) [.beat ⟨0, 0, 0⟩])) (fun t => (t.phase, t.discarding, t.status))
      = some (.finish, true, [.frameLong]) := by
  refine ⟨?_, ?_, ?_, ?_, ?_⟩ <;> decide
/-- StickyMarksStopTheModel: a refusal mark on a machine that nothing else stops, a refusal, a LatchUnset, a recorded LatchUnset, whose second core turn leaves
the log with its one entry, and a logged FrameError that stops nothing. -/
theorem witness_sticky :
    (idleAt (build 6 4)).Ready ∧
    refusalOf (step { idleAt (build 6 4) with refusal := some .reservedOp }) = some .reservedOp ∧
    faultOf (step ((idleAt (build 6 4)).logFault (.latchUnset .gray 1 3))) = some (.latchUnset .gray 1 3) ∧
    refusalOf (step (idleAt (build 0 4))) = some .badGeometry ∧
    (scanAt (build 6 4) 1 3 1).Ready ∧
    faultOf (step (scanAt (build 6 4) 1 3 1)) = some (.latchUnset .gray 1 3) ∧
    .latchUnset .gray 1 3 ∈ ((scanAt (build 6 4) 1 3 1).turn .core).faultLog ∧
    ((scanAt (build 6 4) 1 3 1).turns [.core, .core]).faultLog = [.latchUnset .gray 1 3] ∧
    ((idleAt (build 6 4)).logFault (.frameError .short 0)).Ready ∧
    (idleAt (build 6 4)).scheduled = some .frameStart := by decide
/-- OnlyUnsetLatchesFault: each of the four latches. -/
theorem witness_latches :
    faultOf (exec .gray (scanAt (build 6 4) 0 0 1)) = some (.latchUnset .gray 0 0) ∧
    faultOf (exec .ingestM (scanAt (build 6 4) 0 1 2)) = some (.latchUnset .ingestM 0 1) ∧
    faultOf (exec .ingestL (scanAt (build 6 4) 0 0 2)) = some (.latchUnset .ingestL 0 0) ∧
    faultOf (exec .ingestR (scanAt (build 6 4) 0 5 2)) = some (.latchUnset .ingestR 0 5) ∧
    faultOf (exec .ingestLR (scanAt (build 1 4) 0 0 2)) = some (.latchUnset .ingestLR 0 0) ∧
    faultOf (exec .emit (scanAt (build 6 1) 3 0 2)) = some (.latchUnset .emit 3 0) ∧
    faultOf (exec .expand (scanAt (build 6 1) 3 0 3)) = some (.latchUnset .expand 3 0) ∧
    faultOf (exec .adaptOut (scanAt (build 6 1) 3 0 4)) = some (.latchUnset .adaptOut 3 0) := by decide
/-- FirstStepsAfterReset: the smallest well-formed configuration. -/
theorem witness_first_steps : (build 1 1).wf = true := by decide
/-- StepKeepsOutputsBinary, HostMovesKeepTheInvariants. -/
theorem witness_binary :
    { scanAt (build 6 1) 3 0 4 with
      output := [⟨0, 0, 0⟩], emissions := [(0, 255)], eOut := some 255, pOut := some ⟨255, 255, 255⟩ }.Binary ∧
    (landing (step { scanAt (build 6 1) 3 0 4 with pOut := some ⟨255, 255, 255⟩ }) State.output)
      = some [⟨255, 255, 255⟩] := by decide
/-- MarginColumnsAreNeverRead: two machines whose margins differ and whose interiors do not. -/
theorem witness_margins :
    let s := { scanAt (build 1 1) 3 0 0 with lb := [flat 1, flat 2, flat 3, flat 4, flat 5] }
    let t := { scanAt (build 1 1) 3 0 0 with lb := [flat 9, flat 9, flat 3, flat 9, flat 9] }
    s.AgreeOffMargins t ∧ s.lb ≠ t.lb ∧ s.col < s.cfg.w := by
  refine ⟨⟨rfl, rfl, fun c d h1 h2 => ?_⟩, by decide, by decide⟩
  obtain rfl : c = 2 := Nat.le_antisymm (Nat.le_of_lt_succ h2) h1
  rfl

/-- One pixel, and the frame of it in a 1×1 build (P1). -/
def onePixel : List Rgb :=
  [⟨200, 100, 50⟩]

/-- FrameStartBeginsTracking. -/
theorem witness_frame_begins :
    let s := { idleAt (build 1 1) with input := frameItems onePixel ++ [InItem.boundary] }
    s.cfg.wf = true ∧ s.phase = .idle ∧ s.discarding = false ∧ s.trace = [] ∧
    onePixel.length = s.cfg.npix ∧ s.input = frameItems onePixel ++ [InItem.boundary] := by
  refine ⟨?_, ?_, ?_, ?_, ?_, ?_⟩ <;> decide
/-- FrameFunction. -/
theorem witness_frame_function :
    let s := { scanAt (build 1 1) 0 0 0 with input := frameItems onePixel ++ [InItem.boundary] }
    s.Inv ∧ s.Ready ∧ s.Unbounded ∧ s.phase = .scan ∧ s.row = 0 ∧ s.col = 0 ∧ s.upc = 0 ∧ s.trace = [] ∧
    onePixel.length = s.cfg.npix ∧ s.input = frameItems onePixel ++ [InItem.boundary] := by
  refine ⟨?_, ?_, ?_, ?_, ?_, ?_, ?_, ?_, ?_, ?_⟩ <;> decide

/-- P1 at (3, 0), before its WIN_INSERT, with Win0 = 0. -/
def p1AtInsert : State :=
  { scanAt (build 1 1) 3 0 0 with lb := List.replicate 5 (flat 43), input := [.boundary] }

/-- StepKeepsTheFrameInvariant, ColumnAtEmissionIsTheClampedVerticalRun: P1 before its WIN_INSERT. -/
theorem witness_frame_tracks :
    p1AtInsert.Inv ∧ p1AtInsert.cfg.geometryOk = true ∧ p1AtInsert.Unbounded ∧
    p1AtInsert.scheduled = some .winInsert ∧
    p1AtInsert.FrameTracks onePixel (flatWin 0) [] [] [] := by
  refine ⟨by decide, by decide, by decide, by decide, by decide, by decide, by decide, by decide,
    by decide, ?_, by decide, nofun, nofun, nofun, nofun, by decide, by decide⟩
  intro x hx
  obtain rfl : x = 0 := Nat.lt_one_iff.1 hx
  exact ⟨flat 43, rfl, fun _ => by decide, fun _ h => absurd h (by decide), fun _ _ => by decide⟩
/-- A step from there. -/
theorem test_p1_inserts :
    landing (step p1AtInsert) State.win
      = some (windowAfter (build 1 1) (grayImage (build 1 1) onePixel) (flatWin 0) 1) := by decide
/-- OutputIsRegisteredOneDownTwoLeft, ColumnZeroReachesOnlyFiveOutputColumns: the first columns of each
clause. -/
theorem witness_columns :
    (4 ≤ 4 ∧ 4 < (build 5 1).w) ∧ (5 ≤ 5 ∧ 5 < (build 6 1).w) ∧
    (3 < 4 ∧ 1 ≤ 1 ∧ 4 ≤ (build 4 2).w ∧ 3 < (build 4 2).w) := by decide
/-- ColumnZeroReachesOnlyFiveOutputColumns: two images that differ in column 0 and nowhere else. -/
theorem witness_column_zero :
    let g : Nat → Nat → Byte := fun _ _ => 40
    let g' : Nat → Nat → Byte := fun _ x => if x = 0 then 10 else 40
    (∀ y x, x ≠ 0 → g y x = g' y x) ∧ g 0 0 ≠ g' 0 0 := by
  refine ⟨fun y x h => ?_, by decide⟩
  simp [h]
/-- OnlyTheFirstFourOutputsDependOnWin0: the last output that does, and the first that does not. -/
theorem witness_win0 : (3 ≤ 3 ∧ (0 : Fin 5).val ≤ 3 - 3) ∧ 4 ≤ 4 := by decide
/-- FlatFrameIsBlackFromTheFifthOutput: the fifth output of a 5×1 frame. -/
theorem witness_flat_frame :
    1 ≤ (build 5 1).w ∧ 1 ≤ (build 5 1).h ∧ (build 5 1).kernelZeroSum = true ∧ 4 ≤ 4 ∧
    4 < (build 5 1).npix ∧
    List.replicate 5 (⟨80, 80, 80⟩ : Rgb) = List.replicate (build 5 1).npix ⟨80, 80, 80⟩ := by decide
/-- HostQueueMovesAreFifo. -/
theorem witness_host_moves :
    { scanAt (build 6 4) 0 0 0 with output := [⟨0, 0, 0⟩, ⟨255, 255, 255⟩] }.output
      = ⟨0, 0, 0⟩ :: [⟨255, 255, 255⟩] ∧
    { scanAt (build 6 4) 0 0 0 with status := [.ok, .frameShort] }.status = .ok :: [.frameShort] := by
  decide
/-- EnginesShareNothing: two engines with a source each, and a second platform with the same first engine. -/
theorem witness_engines :
    (0 : Nat) ≠ 1 ∧ (Platform.afterReset [build 1 1, { build 1 1 with source := 1 }]).wf = true ∧
    (Platform.afterReset [build 1 1, build 1 1]).wf = false ∧
    ({ engines := [idleAt (build 1 1), idleAt (build 6 4)] } : Platform).engines[0]?
      = ({ engines := [idleAt (build 1 1)] } : Platform).engines[0]? :=
  ⟨by decide, by decide, by decide, rfl⟩

end Sys2Proof.Tests
end

section
/-! PROOFS. The refusal of an ill-formed configuration (R6, R10, R164, R251): O29. -/

namespace Sys2Proof

/-- A geometry is refused exactly when a dimension is 0 (R6). -/
theorem Config.geometryOk_eq_false {c : Config} : c.geometryOk = false ↔ c.w = 0 ∨ c.h = 0 := by
  simp only [Config.geometryOk, Bool.and_eq_false_iff, decide_eq_false_iff_not, not_le,
    Nat.lt_one_iff]

/-- An accumulator is refused exactly when it has no bit or one of R10's two bounds is broken. -/
theorem Config.accumulatorOk_eq_false {c : Config} :
    c.accumulatorOk = false ↔
      c.accW = 0 ∨ 2 ^ (c.accW - 1) ≤ 255 * max c.kx.absSum c.ky.absSum ∨
        2 ^ (c.accW - 1) ≤ 255 * (c.kx.absSum + c.ky.absSum) := by
  simp only [Config.accumulatorOk, Bool.and_eq_false_iff, decide_eq_false_iff_not, not_lt, not_le,
    Nat.lt_one_iff, or_assoc]

namespace Machine

/-- The geometry is looked at first: its reason is given whatever the accumulator (log entry 24). -/
theorem configRefusal_of_geometry {c : Config} (hg : c.geometryOk = false) :
    configRefusal c = some .badGeometry := by
  simp [configRefusal, hg]

/-- With a good geometry, a broken accumulator bound is the reason (R10, R164). -/
theorem configRefusal_of_accumulator {c : Config} (hg : c.geometryOk = true)
    (ha : c.accumulatorOk = false) : configRefusal c = some .accumulatorTooNarrow := by
  simp [configRefusal, hg, ha]

/-- On a state with no sticky mark, only the configuration can stand in the way of a step (R33, R251). -/
theorem State.standing_of_clean {s : State} (hs : s.Clean) :
    s.standing = (configRefusal s.cfg).map fun why => .refused why := by
  obtain ⟨hlog, href⟩ := hs
  simp [State.standing, hlog, href]

/-- What already stands is the outcome of the step, whatever is due (R226). -/
theorem step_of_standing {s : State} {stop : Result} (h : s.standing = some stop) : step s = stop := by
  simp [step, h]

/-- A clean state steps to its configuration's refusal, whatever is due (R251). -/
theorem step_of_configRefusal {s : State} {why : Refusal} (hs : s.Clean)
    (hc : configRefusal s.cfg = some why) : step s = .refused why :=
  step_of_standing (by rw [State.standing_of_clean hs, hc]; rfl)

/-- Settles O29: the step answers the configuration's refusal before it fetches, and `configRefusal` reads
the geometry before the accumulator. -/
theorem illFormedConfigurationIsRefused : Obligations.IllFormedConfigurationIsRefused := by
  refine ⟨fun s hs hg hacc => ?_, fun s hs hdim => ?_⟩
  · have ha : s.cfg.accumulatorOk = false := Config.accumulatorOk_eq_false.2 hacc
    exact step_of_configRefusal hs (configRefusal_of_accumulator hg ha)
  · have hg : s.cfg.geometryOk = false := Config.geometryOk_eq_false.2 hdim
    exact step_of_configRefusal hs (configRefusal_of_geometry hg)

end Machine

end Sys2Proof
end

section
/-! PROOFS. The structural invariant (R22, R24, R29, R36): it holds after reset and every step keeps it, O42
and O44. -/

namespace Sys2Proof

/-- A geometry is accepted exactly when no dimension is 0 (R6). -/
theorem Config.geometryOk_eq_true {c : Config} : c.geometryOk = true ↔ 0 < c.w ∧ 0 < c.h := by
  simp only [Config.geometryOk, Bool.and_eq_true, decide_eq_true_eq, Nat.succ_le_iff]

/-- A well-formed configuration has an accepted geometry (R251). -/
theorem Config.geometryOk_of_wf {c : Config} (h : c.wf = true) : c.geometryOk = true := by
  simp only [Config.wf, Bool.and_eq_true] at h
  exact h.1

/-- A drawn line buffer has its `LBW` columns (R24, R28). -/
@[simp] theorem Config.length_drawLineBuffer (c : Config) (n : Nat) :
    (c.drawLineBuffer n).length = c.lbw := by
  simp [Config.drawLineBuffer]

/-- ADAPT_IN is the first operation of a position (R60, R90). -/
theorem Config.index_of_adaptIn {c : Config} {row col k : Nat}
    (h : (c.opsAt row col)[k]? = some .adaptIn) : k = 0 := by
  have hne : c.ingestAt col ≠ .adaptIn := by
    rcases c.ingestAt_cases col with ⟨h, -⟩ | ⟨h, -⟩ | ⟨h, -⟩ | ⟨h, -⟩ <;> simp [h]
  rw [Config.opsAt_getElem?] at h
  have hfirst : row < c.h ∧ k = 0 := by simpa [hne.symm] using h
  exact hfirst.2

namespace Machine

/-- No operation of a position has run before the first (R36). -/
theorem State.performed_of_upc_zero {s : State} (hp : s.phase = .scan) (hu : s.upc = 0) :
    s.performed = [] := by
  simp [State.performed, hp, hu]

/-- The four latches are unset (R29). -/
def State.LatchesUnset (s : State) : Prop :=
  s.pIn = none ∧ s.gIn = none ∧ s.eOut = none ∧ s.pOut = none

/-- Outside SCAN the invariant leaves no latch set (R29). -/
theorem State.Inv.latchesUnset {s : State} (hinv : s.Inv) (hp : s.phase ≠ .scan) : s.LatchesUnset := by
  obtain ⟨-, -, -, -, -, -, hpIn, hgIn, heOut, hpOut⟩ := hinv
  simp only [hp, false_and, iff_false, Option.not_isSome_iff_eq_none] at hpIn hgIn heOut hpOut
  exact ⟨hpIn, hgIn, heOut, hpOut⟩

/-- With the latches unset and the index at its start, the invariant is about the position alone. -/
theorem State.inv_of_latchesUnset {s : State} (hlatch : s.LatchesUnset) (hupc : s.upc = 0)
    (hlb : s.lb.length = s.cfg.lbw)
    (hrange : s.cfg.geometryOk = true → s.row < s.cfg.rows ∧ s.col < s.cfg.w)
    (hlast : s.phase = .finish → s.row + 1 = s.cfg.rows ∧ s.col + 1 = s.cfg.w)
    (hdiscard : s.discarding = true → s.phase = .finish) : s.Inv := by
  obtain ⟨hpIn, hgIn, heOut, hpOut⟩ := hlatch
  have hnone : ∀ i, ¬ (s.phase = .scan ∧ i ∈ s.performed) := by
    rintro i ⟨hp, hi⟩
    simp [State.performed_of_upc_zero hp hupc] at hi
  refine ⟨hlb, hrange, fun _ => ?_, hlast, fun _ => hupc, hdiscard, ?_, ?_, ?_, ?_⟩
  · rw [Config.length_opsAt]
    omega
  all_goals simp only [hpIn, hgIn, heOut, hpOut, hnone, Option.isSome_none, Bool.false_eq_true]

/-- What an operation in the middle of a position does to the invariant's fields before it retires: only a
latch may become set, the one the operation writes (R29), and the line buffer keeps its columns (R24). -/
structure State.Performs (i : Instr) (s u : State) : Prop where
  cfg : u.cfg = s.cfg
  phase : u.phase = s.phase
  row : u.row = s.row
  col : u.col = s.col
  upc : u.upc = s.upc
  discarding : u.discarding = s.discarding
  columns : u.lb.length = s.lb.length
  pIn : u.pIn.isSome = true ↔ s.pIn.isSome = true ∨ .adaptIn = i
  gIn : u.gIn.isSome = true ↔ s.gIn.isSome = true ∨ .gray = i
  eOut : u.eOut.isSome = true ↔ s.eOut.isSome = true ∨ .edge = i
  pOut : u.pOut.isSome = true ↔ s.pOut.isSome = true ∨ .expand = i

/-- An operation in the middle of a position keeps the invariant as it retires (R36). -/
theorem State.Performs.inv_retire {i : Instr} {s u : State} (hu : s.Performs i u)
    (hi : i ∉ [.frameStart, .advance, .frameEnd]) (hs : s.scheduled = some i) (hinv : s.Inv) :
    u.retire.Inv := by
  simp only [List.mem_cons, List.not_mem_nil, or_false, not_or] at hi
  obtain ⟨hstart, hadvance, hend⟩ := hi
  obtain ⟨hlb, hrange, -, -, -, hdiscard, hpIn, hgIn, heOut, hpOut⟩ := hinv
  have hp : s.phase = .scan := ((State.scheduled_other hstart hend).1 hs).1
  have hp' : u.retire.phase = .scan := hu.phase.trans hp
  have hmore : s.upc + 1 < (s.cfg.opsAt s.row s.col).length := State.more_to_come hs hp hadvance
  have hdone : u.retire.performed = s.performed ++ [i] :=
    State.performed_retired hs hp hp' hu.cfg hu.row hu.col (congrArg (· + 1) hu.upc)
  refine ⟨?_, ?_, fun _ => ?_, ?_, ?_, ?_, ?_, ?_, ?_, ?_⟩
  · simpa only [State.retire_lb, State.retire_cfg, hu.columns, hu.cfg] using hlb
  · simpa only [State.retire_row, State.retire_col, State.retire_cfg, hu.row, hu.col, hu.cfg] using hrange
  · simpa only [State.retire_row, State.retire_col, State.retire_cfg, State.retire_upc, hu.row, hu.col,
      hu.cfg, hu.upc] using hmore
  · exact fun hfinish => nomatch hp'.symm.trans hfinish
  · exact fun hout => absurd hp' hout
  · simpa only [State.retire_discarding, State.retire_phase, hu.discarding, hu.phase] using hdiscard
  · simp only [State.retire_pIn, hu.pIn, hpIn, hp, hp', hdone, true_and, List.mem_append, List.mem_singleton]
  · simp only [State.retire_gIn, hu.gIn, hgIn, hp, hp', hdone, true_and, List.mem_append, List.mem_singleton]
  · simp only [State.retire_eOut, hu.eOut, heOut, hp, hp', hdone, true_and, List.mem_append, List.mem_singleton]
  · simp only [State.retire_pOut, hu.pOut, hpOut, hp, hp', hdone, true_and, List.mem_append, List.mem_singleton]

/-- An operation that writes no latch, and of the invariant's fields only the line buffer's cells. -/
theorem State.performs_of_lb {i : Instr} {s : State} {lb : LineBuffer} (hl : lb.length = s.lb.length)
    (hi : i ∉ [.adaptIn, .gray, .edge, .expand]) : s.Performs i { s with lb := lb } := by
  simp only [List.mem_cons, List.not_mem_nil, or_false, not_or] at hi
  obtain ⟨hpIn, hgIn, heOut, hpOut⟩ := hi
  constructor <;> simp [hl, Ne.symm hpIn, Ne.symm hgIn, Ne.symm heOut, Ne.symm hpOut]

/-- FRAME_START keeps the invariant: SCAN at (0, 0), whatever went before (R200). -/
theorem exec_frameStart_inv {s t : State} (hinv : s.Inv) (h : exec .frameStart s = .next t) : t.Inv := by
  obtain ⟨hs, rfl⟩ := exec_frameStart_next.1 h
  have hp : s.phase = .idle := State.scheduled_frameStart.1 hs
  obtain ⟨-, -, -, -, -, hdiscard, -⟩ := hinv
  refine State.inv_of_latchesUnset ⟨rfl, rfl, rfl, rfl⟩ rfl (by simp) (fun hg => ?_) (by simp) ?_
  · have := (Config.geometryOk_eq_true.1 hg).1
    exact ⟨by simp, this⟩
  · simpa [hp] using hdiscard

/-- ADVANCE keeps the invariant: the next position is in range, and FINISH is met at the last (R22, R129). -/
theorem exec_advance_inv {s t : State} (hg : s.cfg.geometryOk = true) (hinv : s.Inv)
    (h : exec .advance s = .next t) : t.Inv := by
  obtain ⟨hs, rfl⟩ := exec_advance_next.1 h
  have hp : s.phase = .scan := ((State.scheduled_other (by simp) (by simp)).1 hs).1
  obtain ⟨hlb, hrange, -, -, -, hdiscard, -⟩ := hinv
  obtain ⟨hrow, hcol⟩ := hrange hg
  have hno : s.discarding = false := by simpa [hp] using hdiscard
  obtain ⟨hc, ht⟩ | ⟨hc, hr, ht⟩ | ⟨hc, hr, ht⟩ :=
    State.nextPosition_cases { s.clearLatches with upc := 0, trace := s.trace.tail } <;>
    rw [ht] <;> refine State.inv_of_latchesUnset ⟨rfl, rfl, rfl, rfl⟩ rfl hlb ?_ ?_ ?_
  · exact fun _ => ⟨hrow, hc⟩
  · simp [hp]
  · simp [hno]
  · exact fun _ => ⟨hr, Nat.zero_lt_of_lt hcol⟩
  · simp [hp]
  · simp [hno]
  · exact fun _ => ⟨hrow, hcol⟩
  · exact fun _ => ⟨Nat.le_antisymm hrow (Nat.le_of_not_lt hr), Nat.le_antisymm hcol (Nat.le_of_not_lt hc)⟩
  · simp

/-- A FrameError, taken at the start of a position or at the end of the frame, keeps the invariant (R224). -/
theorem State.endInError_inv {s : State} (hinv : s.Inv) (hupc : s.upc = 0) (cause : FrameCause)
    (count : Nat) : (s.endInError cause count).Inv := by
  obtain ⟨hlb, hrange, -⟩ := hinv
  exact State.inv_of_latchesUnset ⟨rfl, rfl, rfl, rfl⟩ hupc hlb hrange (by simp) (by simp)

/-- The discard keeps the invariant in FINISH, whether it ends the frame or waits (R224, R253). -/
theorem State.discardFrame_inv {s : State} (hinv : s.Inv) (hp : s.phase = .finish) (count : Nat) :
    (s.discardFrame count).Inv := by
  have hlatch := hinv.latchesUnset (by simp [hp])
  obtain ⟨hlb, hrange, -, hlast, hout, -⟩ := id hinv
  have hupc : s.upc = 0 := hout (by simp [hp])
  obtain ⟨rest, -, ht⟩ | ⟨-, ht⟩ := s.discardFrame_cases count <;> rw [ht]
  · exact State.endInError_inv (s := { s with input := rest }) hinv hupc _ _
  · exact State.inv_of_latchesUnset hlatch hupc hlb hrange hlast fun _ => hp

/-- ADAPT_IN keeps the invariant: it holds, takes a beat, or ends the frame before anything of the position
has run (R181, R222). -/
theorem exec_adaptIn_inv {s t : State} (hinv : s.Inv) (h : exec .adaptIn s = .next t) : t.Inv := by
  obtain ⟨hs, ⟨-, rfl⟩ | ⟨p, rest, -, rfl⟩ | ⟨-, -, -, rfl⟩ | ⟨rest, -, -, rfl⟩⟩ := exec_adaptIn_next.1 h
  · exact hinv
  · exact State.Performs.inv_retire (by constructor <;> simp) (by decide) hs hinv
  · exact hinv
  · have hupc := Config.index_of_adaptIn ((State.scheduled_other (by simp) (by simp)).1 hs).2
    exact State.endInError_inv (s := ({ s with input := rest }).statusPush _) hinv hupc _ _

/-- FRAME_END keeps the invariant: it holds, ends the frame, or discards the rest of it (R201, R223). -/
theorem exec_frameEnd_inv {s t : State} (hinv : s.Inv) (h : exec .frameEnd s = .next t) : t.Inv := by
  obtain ⟨hs, hcases⟩ := exec_frameEnd_next.1 h
  have hp : s.phase = .finish := State.scheduled_frameEnd.1 hs
  obtain ⟨-, rfl⟩ | ⟨-, -, rfl⟩ | ⟨-, -, -, rfl⟩ | ⟨rest, -, -, -, rfl⟩ | ⟨p, rest, -, -, -, rfl⟩ := hcases
  · exact State.discardFrame_inv hinv hp _
  · exact hinv
  · exact hinv
  · have hlatch := hinv.latchesUnset (by simp [hp])
    obtain ⟨hlb, hrange, -, -, hout, -⟩ := hinv
    exact State.inv_of_latchesUnset hlatch (hout (by simp [hp])) hlb hrange (by simp) (by simp)
  · exact State.discardFrame_inv (s := ({ s with input := rest }).statusPush _) hinv hp _

/-- The four ingests keep the invariant: they write cells of columns that exist (R121–R124). -/
theorem ingest_inv {i : Instr} {cols : List Nat} {s t : State}
    (hi : i ∈ [.ingestM, .ingestL, .ingestR, .ingestLR]) (hinv : s.Inv)
    (h : ingest i cols s = .next t) : t.Inv := by
  obtain ⟨hs, -, g, -, rfl⟩ := ingest_next.1 h
  have hmiddle : i ∉ [.adaptIn, .gray, .edge, .expand] ∧ i ∉ [.frameStart, .advance, .frameEnd] := by
    revert hi
    cases i <;> decide
  exact (State.performs_of_lb (by simp) hmiddle.1).inv_retire hmiddle.2 hs hinv

/-- Every micro-operation keeps the invariant, on a geometry that has positions. -/
theorem exec_inv {i : Instr} {s t : State} (hg : s.cfg.geometryOk = true) (hinv : s.Inv)
    (h : exec i s = .next t) : t.Inv := by
  cases i with
  | frameStart => exact exec_frameStart_inv hinv h
  | adaptIn => exact exec_adaptIn_inv hinv h
  | gray =>
    obtain ⟨hs, p, -, rfl⟩ := exec_gray_next.1 h
    exact State.Performs.inv_retire (by constructor <;> simp) (by decide) hs hinv
  | ingestM | ingestL | ingestR | ingestLR => exact ingest_inv (by decide) hinv h
  | winInsert =>
    obtain ⟨hs, column, -, rfl⟩ := exec_winInsert_next.1 h
    exact State.Performs.inv_retire (by constructor <;> simp) (by decide) hs hinv
  | edge =>
    obtain ⟨hs, rfl⟩ := exec_edge_next.1 h
    exact State.Performs.inv_retire (by constructor <;> simp) (by decide) hs hinv
  | emit =>
    obtain ⟨hs, e, -, rfl⟩ := exec_emit_next.1 h
    exact State.Performs.inv_retire (by constructor <;> simp) (by decide) hs hinv
  | expand =>
    obtain ⟨hs, e, -, rfl⟩ := exec_expand_next.1 h
    exact State.Performs.inv_retire (by constructor <;> simp) (by decide) hs hinv
  | adaptOut =>
    obtain ⟨hs, ⟨-, rfl⟩ | ⟨-, p, -, rfl⟩⟩ := exec_adaptOut_next.1 h
    · exact hinv
    · exact State.Performs.inv_retire (by constructor <;> simp) (by decide) hs hinv
  | topFixup =>
    obtain ⟨hs, -, rfl⟩ := exec_topFixup_next.1 h
    exact (State.performs_of_lb (by simp) (by decide)).inv_retire (by decide) hs hinv
  | rowShift =>
    obtain ⟨hs, -, rfl⟩ := exec_rowShift_next.1 h
    exact (State.performs_of_lb (by simp) (by decide)).inv_retire (by decide) hs hinv
  | advance => exact exec_advance_inv hg hinv h
  | frameEnd => exact exec_frameEnd_inv hinv h

/-- Settles O44: a step that answers a next state ran one micro-operation, on a well-formed configuration. -/
theorem stepKeepsTheStructuralInvariant : Obligations.StepKeepsTheStructuralInvariant := by
  intro s t hinv h
  obtain ⟨hnone, i, -, hi⟩ := step_next h
  obtain ⟨-, -, hwf⟩ := State.standing_none.1 hnone
  exact exec_inv (Config.geometryOk_of_wf hwf) hinv hi

/-- A reset state has the structural invariant (R34). -/
theorem State.afterReset_inv (c : Config) (n : Nat) : (State.afterReset c n).Inv :=
  State.inv_of_latchesUnset ⟨rfl, rfl, rfl, rfl⟩ rfl (Config.length_drawLineBuffer ..)
    (fun hg => ⟨Nat.succ_pos _, (Config.geometryOk_eq_true.1 hg).1⟩) nofun nofun

/-- A reset state has the binary invariant: it holds no beat, no event and no edge value (R34, R84). -/
theorem State.afterReset_binary (c : Config) (n : Nat) : (State.afterReset c n).Binary :=
  ⟨nofun, nofun, nofun, nofun⟩

/-- Settles O42. -/
theorem resetMeetsTheInvariants : Obligations.ResetMeetsTheInvariants :=
  ⟨State.afterReset_inv .., State.afterReset_binary .., fun c n =>
    ⟨State.afterReset_inv c n, State.afterReset_binary c n⟩⟩

end Machine

end Sys2Proof
end

section
/-! PROOFS. Which micro-operations write each field of the state (R20, R22, R23, R26, R29–R31, R36, R205): O32. -/

namespace Sys2Proof.Machine

/-- Settles O32: `exec_next_cases` names every state an operation can answer, one line per operation here (a
hold is the state it started from), and each differs from `s` in the fields it lists and no others. -/
theorem onlyTheNamedOperationsWriteEachField : Obligations.OnlyTheNamedOperationsWriteEachField := by
  intro i s t h
  obtain ⟨-, hcases⟩ := exec_next_cases h
  obtain ⟨rfl, rfl⟩
    | ⟨rfl, p, -, rfl⟩
    | ⟨cols, g, ⟨rfl, -⟩ | ⟨rfl, -⟩ | ⟨rfl, -⟩ | ⟨rfl, -⟩, -, -, rfl⟩
    | ⟨rfl, column, -, rfl⟩
    | ⟨rfl, rfl⟩
    | ⟨rfl, e, -, rfl⟩
    | ⟨rfl, e, -, rfl⟩
    | ⟨rfl, -, rfl⟩ | ⟨rfl, -, p, -, rfl⟩
    | ⟨rfl, -, rfl⟩
    | ⟨rfl, -, rfl⟩
    | ⟨rfl, -, rfl⟩ | ⟨rfl, -, -, rfl⟩ | ⟨rfl, -, -, rfl⟩
    | ⟨rfl, -, rfl⟩ | ⟨rfl, p, rest, -, rfl⟩ | ⟨rfl, rest, -, -, rfl⟩
    | ⟨rfl, -, rfl⟩ | ⟨rfl, hno, -, rest, -, rfl⟩ | ⟨rfl, hno, -, d, rest, -, -, rfl⟩
    | ⟨rfl, hno, -, -, -, rfl⟩ | ⟨rfl, hyes, d, rest, -, rfl⟩ | ⟨rfl, hyes, -, rfl⟩ := hcases
  all_goals simp +contextual

/-- No micro-operation writes the configuration (R30, R31). -/
theorem exec_next_cfg {i : Instr} {s t : State} (h : exec i s = .next t) : t.cfg = s.cfg :=
  (onlyTheNamedOperationsWriteEachField i s t h).1

end Sys2Proof.Machine
end

section
/-! PROOFS. The sticky marks (R33, R227, R231): O39; the first steps after reset (R34, R250): O43. -/

namespace Sys2Proof

/-- The decoder reads every code back (R86, R87). -/
theorem decode_encode (i : Instr) : decode (encode i) = some i := by
  cases i <;> rfl

namespace Machine

/-- A refusal mark is the step's answer, whatever else the state holds (R33, R226). -/
theorem step_of_refusal {s : State} {why : Refusal} (h : s.refusal = some why) : step s = .refused why :=
  step_of_standing (by simp [State.standing, h])

/-- With no mark, the first stopping fault of the log is the step's answer (R231). -/
theorem step_of_stop {s : State} {f : Fault} (hr : s.refusal = none)
    (hf : s.faultLog.find? Fault.stops = some f) : step s = .fault f :=
  step_of_standing (by simp [State.standing, hr, hf])

/-- A log with a stopping fault in it has a first one. -/
theorem find?_stops_of_mem {log : List Fault} {f : Fault} (hf : f ∈ log) (hs : f.stops = true) :
    ∃ g ∈ log, g.stops = true ∧ log.find? Fault.stops = some g := by
  obtain ⟨g, hg⟩ := Option.isSome_iff_exists.1 (List.find?_isSome.2 ⟨f, hf, hs⟩)
  exact ⟨g, List.mem_of_find?_eq_some hg, List.find?_some hg, hg⟩

/-- A ready core with no trace runs the operation that is due (R90, R92). -/
theorem step_of_scheduled {s : State} {i : Instr} (hready : s.Ready) (htrace : s.trace = [])
    (hi : s.scheduled = some i) : step s = exec i s := by
  have hfetch : s.fetch = .ok i := by
    simp [State.fetch, State.fetchWord, htrace, hi, decode_encode]
  simp [step, State.standing_none.2 hready, hfetch]

/-- A settled core turn of a marked model is no change: it answers the mark, and records it as it stands. -/
theorem State.settle_step_of_refusal {s : State} {why : Refusal} (h : s.refusal = some why) :
    s.settle (step s) = s := by
  rw [step_of_refusal h, State.settle, ← h]

/-- A settled core turn of a model that a LatchUnset has stopped is no change (R231; log entry 10). -/
theorem State.settle_step_of_stop {s : State} {f : Fault} (hf : f ∈ s.faultLog) (hs : f.stops = true) :
    s.settle (step s) = s := by
  cases hr : s.refusal with
  | some why => exact State.settle_step_of_refusal hr
  | none =>
    obtain ⟨g, hg, hgs, hfind⟩ := find?_stops_of_mem hf hs
    rw [step_of_stop hr hfind, State.settle_fault_stopped s g g hg hgs]

/-- No move of the host but a reset touches the log or the mark (R33, R252). -/
theorem State.hostMove_marks (s : State) {m : HostMove} (hm : m ≠ .reset) :
    (s.hostMove m).refusal = s.refusal ∧ (s.hostMove m).faultLog = s.faultLog := by
  cases m with
  | reset => exact absurd rfl hm
  | deliver item => exact ⟨rfl, rfl⟩
  | takeOutput => exact ⟨rfl, rfl⟩
  | takeStatus => exact ⟨rfl, rfl⟩

/-- A model that stands still on a core turn keeps its log and its mark over every turn but a reset. -/
theorem State.turn_marks {s : State} (hstill : s.settle (step s) = s) {t : Turn} (ht : t ≠ .host .reset) :
    (s.turn t).refusal = s.refusal ∧ (s.turn t).faultLog = s.faultLog := by
  cases t with
  | core => simp only [State.turn, hstill, and_self]
  | host m => exact s.hostMove_marks fun hm => ht (congrArg Turn.host hm)

/-- Settles O39: a standing mark answers the step before anything runs, and settling its answer is no
change. -/
theorem stickyMarksStopTheModel : Obligations.StickyMarksStopTheModel := by
  refine ⟨fun s why => step_of_refusal, fun s op row col hr hmem => ?_, fun s t ht => ⟨fun why hr => ?_,
    fun op row col hmem => ?_⟩, fun s why h => ?_, fun s op row col hready h => ?_,
    fun s op row col hmem => ?_, fun s cause count i hready htrace hi => ?_⟩
  · obtain ⟨f, hf, hstops, hfind⟩ := find?_stops_of_mem hmem rfl
    exact ⟨f, hf, hstops, step_of_stop hr hfind⟩
  · rw [(State.turn_marks (State.settle_step_of_refusal hr) ht).1, hr]
  · obtain ⟨hrefusal, hlog⟩ := State.turn_marks (State.settle_step_of_stop hmem rfl) ht
    exact ⟨hlog ▸ hmem, hrefusal⟩
  · have hmark : (s.settle (step s)).refusal = some why := by rw [h, State.settle]
    exact ⟨hmark, step_of_refusal hmark⟩
  · obtain ⟨hr, hlog, -⟩ := hready
    rw [h, State.settle_fault_running s _ hlog]
    refine ⟨rfl, step_of_stop hr ?_⟩
    rw [State.logFault_faultLog, List.find?_append, List.find?_eq_none.2 (by simpa using hlog)]
    rfl
  · rw [State.settle_step_of_stop hmem rfl]
  · obtain ⟨hr, hlog, hwf⟩ := hready
    refine step_of_scheduled ⟨hr, ?_, hwf⟩ htrace hi
    rw [State.logFault_faultLog, List.forall_mem_append, List.forall_mem_singleton]
    exact ⟨hlog, rfl⟩

/-- A reset state of a well-formed configuration is ready (R34). -/
theorem State.afterReset_ready {c : Config} (hc : c.wf = true) (n : Nat) : (State.afterReset c n).Ready :=
  ⟨rfl, nofun, hc⟩

/-- ADAPT_IN is due at the start of every position in the rows of the frame (R90). -/
theorem State.scheduled_adaptIn_at_start {s : State} (hp : s.phase = .scan) (hu : s.upc = 0)
    (hrow : s.row < s.cfg.h) : s.scheduled = some .adaptIn := by
  rw [State.scheduled_scan hp, hu, Config.opsAt_getElem?]
  exact .inl ⟨hrow, .inl ⟨rfl, rfl⟩⟩

/-- At the start of a position in the rows of the frame, with nothing in the input queue, a ready core holds
at ADAPT_IN (R181, R253). -/
theorem step_holds_at_start {s : State} (hready : s.Ready) (htrace : s.trace = []) (hp : s.phase = .scan)
    (hu : s.upc = 0) (hrow : s.row < s.cfg.h) (hinput : s.input = []) :
    s.scheduled = some .adaptIn ∧ step s = .next s := by
  have hdue := State.scheduled_adaptIn_at_start hp hu hrow
  rw [step_of_scheduled hready htrace hdue]
  exact ⟨hdue, exec_adaptIn_next.2 ⟨hdue, .inl ⟨hinput, rfl⟩⟩⟩

/-- Settles O43: FRAME_START leaves the core ready at (0, 0), with nothing in its input queue. -/
theorem firstStepsAfterReset : Obligations.FirstStepsAfterReset := by
  intro c n hc
  have hready := State.afterReset_ready hc n
  have hidle : (State.afterReset c n).scheduled = some .frameStart := State.scheduled_frameStart.2 rfl
  have hrow : 0 < c.h := (Config.geometryOk_eq_true.1 (Config.geometryOk_of_wf hc)).2
  have hstart := exec_frameStart_next.2 ⟨hidle, rfl⟩
  exact ⟨_, (step_of_scheduled hready rfl hidle).trans hstart, rfl, rfl, rfl,
    step_holds_at_start hready rfl rfl rfl hrow rfl⟩

end Machine

end Sys2Proof
end

section
/-! PROOFS. The host's moves on the queues (R32, R69): O58; engines that share nothing (R38, R64, R236): O59. -/

namespace Sys2Proof.Machine

/-- Settles O58: a move takes or gives at its own end of one queue. -/
theorem hostQueueMovesAreFifo : Obligations.HostQueueMovesAreFifo := by
  refine fun s item p w ps ws => ⟨rfl, fun h => ?_, fun h => ?_⟩
  · rw [State.hostMove, h, List.tail_cons]
  · rw [State.hostMove, h, List.tail_cons]

/-- A step leaves the configuration as it was (R30, R31). -/
theorem step_next_cfg {s t : State} (h : step s = .next t) : t.cfg = s.cfg := by
  obtain ⟨-, i, -, hi⟩ := step_next h
  exact exec_next_cfg hi

/-- No turn writes the configuration, a reset included (R30, R31, R250). -/
theorem State.turn_cfg (s : State) (t : Turn) : (s.turn t).cfg = s.cfg := by
  cases t with
  | core =>
    rw [State.turn]
    cases h : step s with
    | next t => exact step_next_cfg h
    | fault f =>
      rw [State.settle]
      split <;> rfl
    | refused why => rfl
  | host m => cases m <;> rfl

/-- A turn of one engine leaves every engine its source of draws (log entry 25). -/
theorem Platform.turnOf_sources (p : Platform) (i : Nat) (t : Turn) :
    (p.turnOf i t).engines.map (fun s => s.cfg.source) = p.engines.map fun s => s.cfg.source := by
  refine List.ext_getElem? fun k => ?_
  simp only [Platform.turnOf, List.getElem?_map, List.getElem?_modify]
  cases p.engines[k]? with
  | none => rfl
  | some s => split <;> simp [State.turn_cfg]

/-- A turn adds no engine and takes none away (R11). -/
theorem Platform.turnOf_count (p : Platform) (i : Nat) (t : Turn) : (p.turnOf i t).count = p.count :=
  List.length_modify ..

/-- The engine that takes the turn. -/
theorem Platform.turnOf_same (p : Platform) (i : Nat) (t : Turn) :
    (p.turnOf i t).engines[i]? = p.engines[i]?.map fun s => s.turn t := by
  simp [Platform.turnOf]

/-- Every other engine stands as it was (R38, R236). -/
theorem Platform.turnOf_other (p : Platform) {i j : Nat} (h : i ≠ j) (t : Turn) :
    (p.turnOf i t).engines[j]? = p.engines[j]? := by
  simp [Platform.turnOf, h]

/-- Settles O59: a turn rewrites one entry of the list of engines, and no turn writes a configuration. -/
theorem enginesShareNothing : Obligations.EnginesShareNothing := by
  refine fun p q i j t => ⟨p.turnOf_count i t, p.turnOf_same i t, fun h => p.turnOf_other h t, fun h => ?_,
    fun hwf => ?_⟩
  · rw [Platform.turnOf_same, Platform.turnOf_same, h]
  · rwa [Platform.wf, Platform.turnOf_count, Platform.turnOf_sources]

end Sys2Proof.Machine
end

section
/-! PROOFS. The line-buffer columns an operation forms (R51, R55, R120): O33 and O60. -/

namespace Sys2Proof

/-- A column that writing newest depths changes is one of the written ones, and it changes at depth 4. -/
theorem LineBuffer.cell_writeNewest_ne {cols : List Nat} {v : Byte} {lb : LineBuffer} {c : Nat}
    {d : Fin 5} (h : (lb.writeNewest cols v).cell c d ≠ lb.cell c d) : c ∈ cols ∧ d = 4 := by
  rw [LineBuffer.cell_writeNewest] at h
  by_cases hwritten : c ∈ cols ∧ c < lb.length ∧ d = 4
  · exact ⟨hwritten.1, hwritten.2.2⟩
  · rw [if_neg hwritten] at h
    exact absurd rfl h

/-- Rewriting one column by a function that keeps its newest depth changes older depths of that column. -/
theorem LineBuffer.cell_update_ne {f : Cells → Cells} (hf : ∀ x, (f x).get 4 = x.get 4)
    {lb : LineBuffer} {k c : Nat} {d : Fin 5} (h : (lb.update k f).cell c d ≠ lb.cell c d) :
    c = k ∧ d ≠ 4 := by
  rw [LineBuffer.cell_update] at h
  by_cases hc : c = k
  · refine ⟨hc, fun hd => h ?_⟩
    rw [if_pos hc, hd]
    simp only [hf, LineBuffer.cell]
  · rw [if_neg hc] at h
    exact absurd rfl h

/-- The margin and the frame column that INGEST_L writes (R122). -/
theorem mem_leftColumns {c : Nat} : c ∈ leftColumns ↔ c < 3 := by
  simp [leftColumns]

/-- The frame column and the margin that INGEST_R writes (R123). -/
theorem Config.mem_rightColumns {cfg : Config} {c : Nat} (hw : 1 ≤ cfg.w) :
    c ∈ cfg.rightColumns ↔ cfg.w + 1 ≤ c ∧ c < cfg.w + 4 := by
  simp only [Config.rightColumns, Config.OFFSET_eq, List.mem_range'_1]
  omega

/-- All that INGEST_LR writes: the frame column and both margins (R124). -/
theorem mem_bothColumns {c : Nat} : c ∈ bothColumns ↔ c < 5 := by
  simp only [bothColumns, Config.OFFSET_eq, List.mem_append, List.mem_range, List.mem_range'_1]
  omega

namespace Machine

/-- The line-buffer columns an operation forms (R51, R55): the current column, or an edge ingest's list. -/
def State.reached (s : State) (i : Instr) : List Nat :=
  match i with
  | .ingestM | .winInsert | .topFixup | .rowShift => [s.c0]
  | .ingestL => leftColumns
  | .ingestR => s.cfg.rightColumns
  | .ingestLR => bothColumns
  | .frameStart | .adaptIn | .gray | .edge | .emit | .expand | .adaptOut | .advance | .frameEnd => []

section Refusals

variable {i : Instr} {s : State}

/-- An operation's own refusal comes after the schedule's (R93, R226). -/
theorem issue_indexRange {body : Result} :
    issue i s body = .refused .indexRange ↔ s.scheduled = some i ∧ body = .refused .indexRange := by
  unfold issue
  split <;> simp_all

/-- An operation that refuses nothing of its own is not refused IndexRange, nor does it form a column. -/
theorem issue_reaching_nothing {body : Result} (hbody : body ≠ .refused .indexRange) :
    issue i s body = .refused .indexRange ↔
      s.scheduled = some i ∧ ∃ c ∈ ([] : List Nat), s.lb.length ≤ c := by
  simp [issue_indexRange, hbody]

/-- Reading a latch refuses nothing of its own (R231). -/
theorem readLatch_indexRange {α : Type} {latch : Option α} {use : α → Result}
    (huse : ∀ v, use v ≠ .refused .indexRange) : readLatch latch i s use ≠ .refused .indexRange := by
  cases latch with
  | none => exact nofun
  | some v => exact huse v

/-- Reaching columns is refused exactly when one of them does not exist (R55). -/
theorem reachColumns_indexRange {cols : List Nat} {body : Result} (hbody : body ≠ .refused .indexRange) :
    reachColumns cols s body = .refused .indexRange ↔ ∃ c ∈ cols, s.lb.length ≤ c := by
  refine ⟨fun h => ?_, fun ⟨c, hc, hout⟩ => reachColumns_outside hc hout⟩
  by_contra hin
  rw [reachColumns_within (by simpa using hin)] at h
  exact hbody h

/-- A FrameError, or the hold in its place, is no refusal (R224). -/
theorem raiseFrameError_not_refused {rest : List InItem} {cause : FrameCause} {count : Nat}
    {why : Refusal} : raiseFrameError s rest cause count ≠ .refused why := by
  unfold raiseFrameError hold
  split <;> exact nofun

/-- The four ingests refuse a column outside the line buffer before they read the latch (R55, R226). -/
theorem ingest_indexRange {cols : List Nat} : ingest i cols s = .refused .indexRange ↔
    s.scheduled = some i ∧ ∃ c ∈ cols, s.lb.length ≤ c := by
  rw [ingest, issue_indexRange, reachColumns_indexRange (readLatch_indexRange nofun)]

/-- EXACTLY WHEN AN OPERATION IS REFUSED IndexRange (R55): it is due and forms a column that does not exist. -/
theorem exec_indexRange : exec i s = .refused .indexRange ↔
    s.scheduled = some i ∧ ∃ c ∈ s.reached i, s.lb.length ≤ c := by
  cases i with
  | ingestM | ingestL | ingestR | ingestLR => exact ingest_indexRange
  | topFixup | rowShift => exact issue_indexRange.trans (and_congr_right' (reachColumns_indexRange nofun))
  | winInsert =>
    refine issue_indexRange.trans (and_congr_right' ?_)
    cases h : s.lb[s.c0]? with
    | none => simpa [State.reached] using h
    | some column => simpa [State.reached] using (List.getElem?_eq_some_iff.1 h).1
  | frameStart | edge | advance => exact issue_reaching_nothing nofun
  | gray | emit | expand => exact issue_reaching_nothing (readLatch_indexRange nofun)
  | adaptIn =>
    refine issue_reaching_nothing ?_
    rcases s.input with _ | ⟨_ | _, rest⟩
    · exact nofun
    · exact nofun
    · exact raiseFrameError_not_refused
  | adaptOut =>
    refine issue_reaching_nothing ?_
    split
    · exact nofun
    · exact readLatch_indexRange nofun
  | frameEnd =>
    refine issue_reaching_nothing ?_
    split
    · exact nofun
    · exact nofun
    · split <;> exact nofun
    · exact raiseFrameError_not_refused

end Refusals

/-- An ingest that is due is the variant of its column (R91). -/
theorem State.ingestAt_of_scheduled {s : State} {i : Instr}
    (hi : i = .ingestM ∨ i = .ingestL ∨ i = .ingestR ∨ i = .ingestLR) (hs : s.scheduled = some i) :
    s.cfg.ingestAt s.col = i := by
  obtain ⟨-, hat⟩ := (State.scheduled_other (by rintro rfl; simp at hi) (by rintro rfl; simp at hi)).1 hs
  rw [Config.opsAt_getElem?] at hat
  have hat : s.row < s.cfg.h ∧ s.upc = 2 ∧ i = s.cfg.ingestAt s.col := by
    rcases hi with rfl | rfl | rfl | rfl <;> simpa using hat
  exact hat.2.2.symm

/-- An operation that is due forms the current column, or, if it is an edge ingest, a margin's (R120). -/
theorem State.reached_cases {s : State} {i : Instr} (hs : s.scheduled = some i) (hw : 1 ≤ s.cfg.w)
    {c : Nat} (hc : c ∈ s.reached i) : c = s.col + 2 ∨
      (i = .ingestL ∨ i = .ingestR ∨ i = .ingestLR) ∧ (c < 2 ∨ s.cfg.w + 2 ≤ c) ∧ c < s.cfg.w + 4 := by
  have hvariant := s.cfg.ingestAt_cases s.col
  cases i with
  | ingestM | winInsert | topFixup | rowShift => exact .inl (List.mem_singleton.1 hc)
  | ingestL =>
    have hc : c < 3 := mem_leftColumns.1 hc
    have hcol : s.col = 0 ∧ 2 ≤ s.cfg.w := by
      simpa [State.ingestAt_of_scheduled (by simp) hs] using hvariant
    exact Or.imp_right (And.intro (by simp)) (by omega)
  | ingestR =>
    have hc := (Config.mem_rightColumns hw).1 hc
    have hcol : 0 < s.col ∧ s.col = s.cfg.w - 1 := by
      simpa [State.ingestAt_of_scheduled (by simp) hs] using hvariant
    exact Or.imp_right (And.intro (by simp)) (by omega)
  | ingestLR =>
    have hc : c < 5 := mem_bothColumns.1 hc
    have hcol : s.col = 0 ∧ s.cfg.w ≤ 1 := by
      simpa [State.ingestAt_of_scheduled (by simp) hs] using hvariant
    exact Or.imp_right (And.intro (by simp)) (by omega)
  | frameStart | adaptIn | gray | edge | emit | expand | adaptOut | advance | frameEnd =>
    exact absurd hc List.not_mem_nil

/-- Settles O60: a position in range forms only columns that exist, and of each kind of operation one
column that does not is enough. -/
theorem columnsOutsideTheLineBufferAreRefused : Obligations.ColumnsOutsideTheLineBufferAreRefused := by
  refine ⟨fun i s hlen hcol h => ?_, fun i s hs hshort => exec_indexRange.2 ⟨hs, ?_⟩⟩
  · obtain ⟨hs, c, hc, hout⟩ := exec_indexRange.1 h
    rcases State.reached_cases hs (Nat.one_le_of_lt hcol) hc with rfl | ⟨-, -, hc⟩ <;> omega
  · obtain ⟨rfl | rfl | rfl | rfl, h⟩ | ⟨rfl, h⟩ | ⟨rfl, h⟩ | ⟨rfl, h⟩ := hshort
    iterate 4 exact ⟨s.c0, List.mem_singleton_self _, h⟩
    · exact ⟨2, mem_leftColumns.2 (by decide), h⟩
    · exact ⟨s.cfg.w - 1 + 4, by simp [State.reached, Config.rightColumns], h⟩
    · exact ⟨4, mem_bothColumns.2 (by decide), h⟩

/-- A cell an ingest changes is the newest depth of one of its columns (R121–R124). -/
theorem ingest_changes_cell {i : Instr} {cols : List Nat} {s t : State} (h : ingest i cols s = .next t)
    {c : Nat} {d : Fin 5} (hne : t.lb.cell c d ≠ s.lb.cell c d) : c ∈ cols ∧ d = 4 := by
  obtain ⟨-, -, g, -, rfl⟩ := ingest_next.1 h
  exact LineBuffer.cell_writeNewest_ne hne

/-- WHAT CHANGES A CELL WITHIN A FRAME (R51): an ingest, the newest depth of a column it forms; a fix-up or a
shift, an older depth of the column it forms. -/
theorem exec_changes_cell {i : Instr} {s t : State} (h : exec i s = .next t) (hi : i ≠ .frameStart)
    {c : Nat} {d : Fin 5} (hne : t.lb.cell c d ≠ s.lb.cell c d) : c ∈ s.reached i ∧
      ((i = .ingestM ∨ i = .ingestL ∨ i = .ingestR ∨ i = .ingestLR) ∧ d = 4 ∨
        (i = .topFixup ∨ i = .rowShift) ∧ d ≠ 4) := by
  obtain ⟨-, -, -, hwriter, -⟩ := onlyTheNamedOperationsWriteEachField i s t h
  rcases hwriter fun hlb => hne (by rw [hlb]) with rfl | rfl | rfl | rfl | rfl | rfl | rfl
  · exact absurd rfl hi
  iterate 4
    obtain ⟨hc, hd⟩ := ingest_changes_cell h hne
    exact ⟨hc, .inl ⟨by simp, hd⟩⟩
  · obtain ⟨-, -, rfl⟩ := exec_topFixup_next.1 h
    obtain ⟨hc, hd⟩ := LineBuffer.cell_update_ne (fun x => x.get_seed 4) hne
    exact ⟨List.mem_singleton.2 hc, .inr ⟨by simp, hd⟩⟩
  · obtain ⟨-, -, rfl⟩ := exec_rowShift_next.1 h
    obtain ⟨hc, hd⟩ := LineBuffer.cell_update_ne (f := Cells.age) (fun _ => rfl) hne
    exact ⟨List.mem_singleton.2 hc, .inr ⟨by simp, hd⟩⟩

/-- Settles O33: a changed cell is in a column the operation forms, and the decode table fixes which those are. -/
theorem lineBufferWritersReachOnlyTheirCells : Obligations.LineBufferWritersReachOnlyTheirCells := by
  intro i s t c d hw _ h hi hne
  obtain ⟨hc, hdepth⟩ := exec_changes_cell h hi hne
  exact ⟨State.reached_cases (exec_next_scheduled h) hw hc, hdepth⟩

end Machine

end Sys2Proof
end

section
/-! PROOFS. The raster order of positions (R61, R129): O35; the queues and the sticky log (R33, R57, R62,
R205): O37; FRAME_START forgets the frame before (R63, R204): O49. -/

namespace Sys2Proof

/-- ADAPT_IN stands only in the rows of the frame; a drain row has none (R90, R205). -/
theorem Config.row_of_adaptIn {c : Config} {row col k : Nat}
    (h : (c.opsAt row col)[k]? = some .adaptIn) : row < c.h := by
  have hk := Config.index_of_adaptIn h
  subst hk
  by_contra hrow
  rw [Config.opsAt_getElem?] at h
  simp [hrow] at h

namespace Machine

/-- Settles O35: ADVANCE goes to the next column or, from the last, to the first of the next row. -/
theorem rasterIndexAdvancesByOne : Obligations.RasterIndexAdvancesByOne := by
  rintro i s t ⟨-, hrange, -⟩ hg hscan h hscan'
  refine ⟨fun hi => ?_, fun hi => ?_⟩
  · obtain ⟨-, -, -, -, -, -, hposition, -⟩ := onlyTheNamedOperationsWriteEachField i s t h
    by_contra hmoved
    rcases hposition (not_and_or.1 hmoved) with rfl | rfl
    · exact nomatch hscan.symm.trans (State.scheduled_frameStart.1 (exec_next_scheduled h))
    · exact hi rfl
  · subst hi
    have hcol : s.col < s.cfg.w := (hrange hg).2
    obtain ⟨-, rfl⟩ := exec_advance_next.1 h
    obtain ⟨-, ht⟩ | ⟨hlast, -, ht⟩ | ⟨-, -, ht⟩ :=
      State.nextPosition_cases { s.clearLatches with upc := 0, trace := s.trace.tail }
    all_goals rw [ht] at hscan' ⊢
    · exact (Nat.add_assoc ..).symm
    · have hw : s.cfg.w = s.col + 1 := Nat.le_antisymm (Nat.le_of_not_lt hlast) hcol
      change (s.row + 1) * s.cfg.w + 0 = s.row * s.cfg.w + s.col + 1
      rw [Nat.succ_mul]
      omega
    · exact nomatch hscan'

/-- A queue or log that kept all it held, in order, and took at most one item more at its end (R33, R62). -/
def AppendsAtMostOne {α : Type} (before after : List α) : Prop :=
  ∃ added, after = before ++ added ∧ added.length ≤ 1

theorem AppendsAtMostOne.refl {α : Type} (l : List α) : AppendsAtMostOne l l :=
  ⟨[], by simp⟩

theorem AppendsAtMostOne.concat {α : Type} (l : List α) (x : α) : AppendsAtMostOne l (l ++ [x]) :=
  ⟨[x], rfl, le_rfl⟩

section Discard

variable (s : State) (count : Nat)

/-- The discard pushes no status word; the word was pushed before it (R224). -/
@[simp] theorem State.discardFrame_status : (s.discardFrame count).status = s.status := by
  obtain ⟨rest, -, ht⟩ | ⟨-, ht⟩ := s.discardFrame_cases count
  · rw [ht, State.endInError_status]
  · rw [ht]

/-- The discard is logged once, when it ends (R224). -/
theorem State.discardFrame_faultLog : AppendsAtMostOne s.faultLog (s.discardFrame count).faultLog := by
  obtain ⟨rest, -, ht⟩ | ⟨-, ht⟩ := s.discardFrame_cases count <;> rw [ht]
  · exact .concat ..
  · exact .refl _

/-- The discard pops from the front of the input alone (R57, R224). -/
theorem State.discardFrame_input : (s.discardFrame count).input <:+ s.input := by
  obtain ⟨rest, hrest, ht⟩ | ⟨-, ht⟩ := s.discardFrame_cases count <;> rw [ht]
  · obtain ⟨dropped, hd⟩ := afterBoundary_some hrest
    exact ⟨dropped ++ [.boundary], by simp [hd]⟩
  · exact List.nil_suffix

/-- A FrameError pushes its one status word and is logged at most once (R221, R224). -/
theorem State.takeFrameError_status_and_log (cause : FrameCause) :
    AppendsAtMostOne s.status (s.takeFrameError cause count).status ∧
      AppendsAtMostOne s.faultLog (s.takeFrameError cause count).faultLog := by
  cases cause with
  | short => exact ⟨.concat .., .concat ..⟩
  | long =>
    rw [State.takeFrameError, State.discardFrame_status]
    exact ⟨.concat .., State.discardFrame_faultLog (s.statusPush _) count⟩

end Discard

section Steps

variable {i : Instr} {s t : State}

/-- ADAPT_IN takes nothing or the front item, and only in a row of the frame (R181, R205). -/
theorem exec_adaptIn_input (h : exec .adaptIn s = .next t) : s.phase = .scan ∧ s.row < s.cfg.h ∧
    (s.input = t.input ∨ ∃ item, s.input = item :: t.input) := by
  obtain ⟨hs, hcases⟩ := exec_adaptIn_next.1 h
  obtain ⟨hp, hat⟩ := (State.scheduled_other (by simp) (by simp)).1 hs
  refine ⟨hp, Config.row_of_adaptIn hat, ?_⟩
  obtain ⟨-, rfl⟩ | ⟨p, rest, hin, rfl⟩ | ⟨-, -, -, rfl⟩ | ⟨rest, hin, -, rfl⟩ := hcases
  · exact .inl rfl
  · exact .inr ⟨_, hin⟩
  · exact .inl rfl
  · exact .inr ⟨_, hin⟩

/-- FRAME_END pops from the front of the input alone, and only in FINISH (R201, R224). -/
theorem exec_frameEnd_input (h : exec .frameEnd s = .next t) : s.phase = .finish ∧ t.input <:+ s.input := by
  obtain ⟨hs, hcases⟩ := exec_frameEnd_next.1 h
  refine ⟨State.scheduled_frameEnd.1 hs, ?_⟩
  obtain ⟨-, rfl⟩ | ⟨-, -, rfl⟩ | ⟨-, -, -, rfl⟩ | ⟨rest, -, hin, -, rfl⟩ | ⟨p, rest, -, hin, -, rfl⟩ :=
    hcases
  · exact State.discardFrame_input ..
  · exact List.suffix_rfl
  · exact List.suffix_rfl
  · exact hin ▸ List.suffix_cons ..
  · exact hin ▸ (State.discardFrame_input _ _).trans (List.suffix_cons ..)

/-- What an operation pops from the input, by phase and row (R57, R205). -/
theorem exec_input (h : exec i s = .next t) : ∃ popped, s.input = popped ++ t.input ∧
    (s.phase = .scan → popped.length ≤ 1 ∧ (s.cfg.h ≤ s.row → popped = [])) ∧
    (s.phase = .idle → popped = []) := by
  obtain ⟨-, -, -, -, -, -, -, hinput, -⟩ := onlyTheNamedOperationsWriteEachField i s t h
  by_cases hsame : t.input = s.input
  · exact ⟨[], by simp [hsame]⟩
  rcases hinput hsame with rfl | rfl
  · obtain ⟨hp, hrow, hpop⟩ := exec_adaptIn_input h
    obtain ⟨item, hitem⟩ := hpop.resolve_left (Ne.symm hsame)
    exact ⟨[item], hitem, fun _ => ⟨le_rfl, fun hdrain => absurd hrow (Nat.not_lt.2 hdrain)⟩,
      fun hidle => nomatch hp.symm.trans hidle⟩
  · obtain ⟨hp, popped, hpop⟩ := exec_frameEnd_input h
    exact ⟨popped, hpop.symm, fun hscan => (nomatch hp.symm.trans hscan),
      fun hidle => (nomatch hp.symm.trans hidle)⟩

/-- The output takes at most one beat, ADAPT_OUT's (R182). -/
theorem exec_output (h : exec i s = .next t) : AppendsAtMostOne s.output t.output := by
  obtain ⟨-, -, -, -, -, -, -, -, houtput, -⟩ := onlyTheNamedOperationsWriteEachField i s t h
  by_cases hsame : t.output = s.output
  · exact hsame ▸ .refl _
  obtain rfl := houtput hsame
  obtain ⟨-, ⟨-, rfl⟩ | ⟨-, p, -, rfl⟩⟩ := exec_adaptOut_next.1 h
  · exact .refl _
  · exact .concat ..

/-- The emissions take at most one event, EMIT's (R126). -/
theorem exec_emissions (h : exec i s = .next t) : AppendsAtMostOne s.emissions t.emissions := by
  obtain ⟨-, -, -, -, -, -, -, -, -, -, -, hemissions, -⟩ := onlyTheNamedOperationsWriteEachField i s t h
  by_cases hsame : t.emissions = s.emissions
  · exact hsame ▸ .refl _
  obtain rfl := hemissions hsame
  obtain ⟨-, e, -, rfl⟩ := exec_emit_next.1 h
  exact .concat ..

/-- The status queue and the log take at most one item each, ADAPT_IN's or FRAME_END's (R221, R224). -/
theorem exec_status_and_log (h : exec i s = .next t) :
    AppendsAtMostOne s.status t.status ∧ AppendsAtMostOne s.faultLog t.faultLog := by
  obtain ⟨-, -, -, -, -, -, -, -, -, hstatus, hlog, -⟩ := onlyTheNamedOperationsWriteEachField i s t h
  by_cases hsame : t.status = s.status ∧ t.faultLog = s.faultLog
  · rw [hsame.1, hsame.2]
    exact ⟨.refl _, .refl _⟩
  rcases (not_and_or.1 hsame).elim hstatus hlog with rfl | rfl
  · obtain ⟨-, ⟨-, rfl⟩ | ⟨p, rest, -, rfl⟩ | ⟨-, -, -, rfl⟩ | ⟨rest, -, -, rfl⟩⟩ := exec_adaptIn_next.1 h
    iterate 3 exact ⟨.refl _, .refl _⟩
    · exact State.takeFrameError_status_and_log { s with input := rest } ..
  · obtain ⟨-, ⟨-, rfl⟩ | ⟨-, -, rfl⟩ | ⟨-, -, -, rfl⟩ | ⟨rest, -, -, -, rfl⟩ | ⟨p, rest, -, -, -, rfl⟩⟩ :=
      exec_frameEnd_next.1 h
    · rw [State.discardFrame_status]
      exact ⟨.refl _, State.discardFrame_faultLog ..⟩
    iterate 2 exact ⟨.refl _, .refl _⟩
    · exact ⟨.concat .., .refl _⟩
    · exact State.takeFrameError_status_and_log { s with input := rest } ..

end Steps

/-- Settles O37: a step ran one micro-operation, and each queue and log has the operations that touch it. -/
theorem queuesAreFifoAndLogsAreSticky : Obligations.QueuesAreFifoAndLogsAreSticky := by
  intro s t h
  obtain ⟨-, i, -, hi⟩ := step_next h
  obtain ⟨hstatus, hlog⟩ := exec_status_and_log hi
  exact ⟨exec_input hi, exec_output hi, hstatus, hlog, exec_emissions hi⟩

/-- Settles O49: the state FRAME_START answers is written from the configuration, the count of draws and
fields no frame leaves behind; the arrays are the draw of that count. -/
theorem frameStartForgetsThePreviousFrame : Obligations.FrameStartForgetsThePreviousFrame := by
  refine ⟨fun s t hs ht heq => ?_, fun s t h => ?_⟩
  · rw [exec_frameStart_next.2 ⟨State.scheduled_frameStart.2 hs, rfl⟩,
      exec_frameStart_next.2 ⟨State.scheduled_frameStart.2 ht, rfl⟩, ← heq]
    rfl
  · obtain ⟨-, rfl⟩ := exec_frameStart_next.1 h
    refine ⟨rfl, fun c d hc => Config.cell_drawLineBuffer _ _ _ _ hc, fun r k => ?_⟩
    simp only [Config.drawWindow, Five.get_ofFn]

end Machine

end Sys2Proof
end

section
/-! PROOFS. The code table (R86–R88): O1 and O3; the trace forms (R94): O4; the formats on the queues (R82,
R85): O5. -/

namespace Sys2Proof

/-- The word that spells an operation is that operation's code (R87). -/
theorem encode_of_decode {w : OpWord} {i : Instr} (h : decode w = some i) : encode i = w := by
  unfold decode at h
  split at h <;> cases h <;> exact BitVec.eq_of_toNat_eq (Eq.symm ‹_›)

/-- The 32 words, one by one: the reserved ones are those outside `0x01`–`0x10` (R88). -/
theorem decode_eq_none : ∀ w : OpWord, decode w = none ↔ w.toNat = 0 ∨ 0x11 ≤ w.toNat := by
  decide

/-- The binary form of a trace reads back as the trace (R94). -/
theorem decodeTrace_encodeTrace (is : List Instr) : decodeTrace (encodeTrace is) = some is := by
  induction is with
  | nil => rfl
  | cons i is ih =>
    change decodeTrace (encode i :: encodeTrace is) = some (i :: is)
    rw [decodeTrace, decode_encode, ih]

/-- A word list that reads back is the binary form of what it reads as (R94). -/
theorem encodeTrace_of_decodeTrace {ws : List OpWord} {is : List Instr} (h : decodeTrace ws = some is) :
    encodeTrace is = ws := by
  induction ws generalizing is with
  | nil =>
    cases h
    rfl
  | cons w ws ih =>
    rw [decodeTrace] at h
    split at h
    next i rest hw hrest =>
      cases h
      exact congrArg₂ List.cons (encode_of_decode hw) (ih hrest)
    next => cases h

/-- No earlier operation of `Instr.all` has the mnemonic (R80, R94). -/
theorem Instr.ofMnemonic_mnemonic (i : Instr) : Instr.ofMnemonic i.mnemonic.toList = some i := by
  cases i <;> decide

/-- The one text an operation is read from is its mnemonic (R94). -/
theorem Instr.ofMnemonic_eq_some {name : List Char} {i : Instr} :
    Instr.ofMnemonic name = some i ↔ name = i.mnemonic.toList := by
  refine ⟨fun h => ?_, fun h => h ▸ i.ofMnemonic_mnemonic⟩
  have hfound := List.find?_some h
  exact (beq_iff_eq.1 hfound).symm

/-- Settles O4: both directions by induction on the list, and the mnemonics one by one. -/
theorem traceFormReadsBack : Obligations.TraceFormReadsBack :=
  ⟨decodeTrace_encodeTrace, fun _ _ => encodeTrace_of_decodeTrace, fun _ _ => Instr.ofMnemonic_eq_some⟩

/-- Settles O1: each word of the table is the code of its operation. -/
theorem decodeReadsTheCodeTable : Obligations.DecodeReadsTheCodeTable :=
  ⟨decode_encode .frameStart, decode_encode .adaptIn, decode_encode .gray, decode_encode .ingestM,
    decode_encode .ingestL, decode_encode .ingestR, decode_encode .ingestLR, decode_encode .winInsert,
    decode_encode .edge, decode_encode .emit, decode_encode .expand, decode_encode .adaptOut,
    decode_encode .topFixup, decode_encode .rowShift, decode_encode .advance, decode_encode .frameEnd⟩

/-- Settles O3. -/
theorem decodeAndEncodeAgree : Obligations.DecodeAndEncodeAgree :=
  ⟨fun i _ => decode_encode i, fun _ _ => encode_of_decode⟩

namespace Machine

/-- A beat as a number: its channels are the digits in base 256, R the lowest (R82). -/
theorem Rgb.toNat_pack (p : Rgb) :
    p.pack.toNat = p.r.toNat + 256 * p.g.toNat + 65536 * p.b.toNat := by
  rw [Rgb.pack, BitVec.toNat_append, ← Nat.shiftLeft_add_eq_or_of_lt p.r.isLt, BitVec.toNat_append,
    ← Nat.shiftLeft_add_eq_or_of_lt p.g.isLt, Nat.shiftLeft_eq, Nat.shiftLeft_eq]
  omega

/-- The channels of a word are its digits in base 256 (R82). -/
theorem Rgb.toNat_unpack (v : BitVec 24) :
    (Rgb.unpack v).r.toNat = v.toNat % 256 ∧ (Rgb.unpack v).g.toNat = v.toNat / 256 % 256 ∧
      (Rgb.unpack v).b.toNat = v.toNat / 65536 % 256 := by
  simp [Rgb.unpack, BitVec.extractLsb'_toNat, Nat.shiftRight_eq_div_pow]

/-- A beat reads back from its word (R82). -/
theorem Rgb.unpack_pack (p : Rgb) : Rgb.unpack p.pack = p := by
  obtain ⟨hr, hg, hb⟩ := Rgb.toNat_unpack p.pack
  rw [Rgb.toNat_pack] at hr hg hb
  have hr' : (Rgb.unpack p.pack).r = p.r := BitVec.eq_of_toNat_eq (by omega)
  have hg' : (Rgb.unpack p.pack).g = p.g := BitVec.eq_of_toNat_eq (by omega)
  have hb' : (Rgb.unpack p.pack).b = p.b := BitVec.eq_of_toNat_eq (by omega)
  exact (Rgb.mk.injEq ..).mpr ⟨hr', hg', hb'⟩

/-- Every 24-bit word is a beat's (R82). -/
theorem Rgb.pack_unpack (v : BitVec 24) : (Rgb.unpack v).pack = v := by
  refine BitVec.eq_of_toNat_eq ?_
  obtain ⟨hr, hg, hb⟩ := Rgb.toNat_unpack v
  rw [Rgb.toNat_pack, hr, hg, hb]
  omega

/-- A status reads back from its word (R85). -/
theorem FrameStatus.ofWord_word (f : FrameStatus) : FrameStatus.ofWord f.word = some f := by
  cases f <;> rfl

/-- Settles O5. -/
theorem beatAndStatusFormats : Obligations.BeatAndStatusFormats :=
  ⟨Rgb.toNat_pack, Rgb.unpack_pack, Rgb.pack_unpack, rfl, rfl, rfl, FrameStatus.ofWord_word, rfl⟩

end Machine

end Sys2Proof
end

section
/-! PROOFS. What a step issues (R36, R88, R90, R93): O2, O8 and O9. -/

namespace Sys2Proof.Machine

section Issue

variable {i : Instr} {s : State}

/-- A ready core runs what it fetches. -/
theorem step_of_fetch_ok (hready : s.Ready) (h : s.fetch = .ok i) : step s = exec i s := by
  simp only [step, State.standing_none.2 hready, h]

/-- A ready core that can fetch nothing answers the fetch's refusal (R33). -/
theorem step_of_fetch_error {why : Refusal} (hready : s.Ready) (h : s.fetch = .error why) :
    step s = .refused why := by
  simp only [step, State.standing_none.2 hready, h]

/-- The fetch refuses a reserved word at the head of a trace (R88). -/
theorem State.fetch_reserved {w : OpWord} {rest : List OpWord} (htrace : s.trace = w :: rest)
    (hw : decode w = none) : s.fetch = .error .reservedOp := by
  simp only [State.fetch, State.fetchWord, htrace, hw]

/-- Every operation is issued in sequence or refused (R93). -/
theorem exec_unscheduled (h : s.scheduled ≠ some i) : exec i s = .refused .outOfSequence := by
  cases i <;> exact issue_unscheduled h

end Issue

/-- Settles O2. -/
theorem reservedWordsAreRefused : Obligations.ReservedWordsAreRefused :=
  ⟨decode_eq_none, fun _ w _ hready htrace hw =>
    step_of_fetch_error hready (State.fetch_reserved htrace ((decode_eq_none w).2 hw))⟩

/-- Settles O8. -/
theorem stepRunsTheIssuedInstruction : Obligations.StepRunsTheIssuedInstruction :=
  ⟨fun _ _ _ _ hready htrace hw => step_of_fetch_ok hready (State.fetch_trace htrace hw),
    fun _ _ => step_of_scheduled⟩

/-- Settles O9: the step of a trace runs its word, and the word's operation is not due. -/
theorem outOfSequenceIsRefused : Obligations.OutOfSequenceIsRefused :=
  ⟨fun _ _ => exec_unscheduled, fun _ _ _ _ hready htrace hw hdue =>
    (step_of_fetch_ok hready (State.fetch_trace htrace hw)).trans (exec_unscheduled hdue)⟩

end Sys2Proof.Machine
end

section
/-! PROOFS. The position decode table (R90, R91): O6; the operation counts of a frame (R92, R98): O7. -/

namespace Sys2Proof

section Stages

variable {c : Config} {row : Nat}

/-- A row of the frame has an input stage (R60, R90). -/
theorem Config.inputStage_frame (h : row < c.h) (col : Nat) :
    c.inputStage row col = [.adaptIn, .gray, c.ingestAt col] :=
  if_pos h

/-- A drain row has no input stage (R60, R90). -/
theorem Config.inputStage_drain (h : c.h ≤ row) (col : Nat) : c.inputStage row col = [] :=
  if_neg (Nat.not_lt.2 h)

/-- The first three rows have no emit stage (R60, R90). -/
theorem emitStage_prime (h : row ≤ 2) : emitStage row = [] :=
  if_neg (Nat.not_lt.2 h)

/-- Every later row has an emit stage (R60, R90). -/
theorem emitStage_emit (h : 2 < row) : emitStage row = [.winInsert, .edge, .emit, .expand, .adaptOut] :=
  if_pos h

/-- The first row ends its positions with TOP_FIXUP (R90). -/
theorem Config.opsAt_first (c : Config) (col : Nat) :
    c.opsAt 0 col = c.inputStage 0 col ++ [.topFixup, .advance] := by
  rw [Config.opsAt, List.append_assoc, List.append_assoc]
  rfl

/-- Every later row ends its positions with ROW_SHIFT (R90). -/
theorem Config.opsAt_later (c : Config) (h : 0 < row) (col : Nat) :
    c.opsAt row col = c.inputStage row col ++ emitStage row ++ [.rowShift, .advance] := by
  rw [Config.opsAt, if_neg h.ne', List.append_assoc]
  rfl

end Stages

/-- Which columns of a row have which ingest variant (R91). -/
theorem Config.ingestAt_eq (c : Config) {col : Nat} (hcol : col < c.w) :
    (c.ingestAt col = .ingestLR ↔ c.w = 1) ∧
    (c.ingestAt col = .ingestL ↔ col = 0 ∧ 2 ≤ c.w) ∧
    (c.ingestAt col = .ingestR ↔ col = c.w - 1 ∧ 2 ≤ c.w) ∧
    (c.ingestAt col = .ingestM ↔ 0 < col ∧ col < c.w - 1) := by
  obtain ⟨h, hc⟩ | ⟨h, hc⟩ | ⟨h, hc⟩ | ⟨h, hc⟩ := c.ingestAt_cases col <;> rw [h] <;>
    simp only [reduceCtorEq, true_iff, false_iff] <;> omega

/-- Settles O6: each class of rows has its stages, and the columns are `ingestAt_eq`'s. -/
theorem positionDecodeTable : Obligations.PositionDecodeTable := by
  refine ⟨fun c row col => ⟨fun hfirst hin => ?_, fun hlater hprime hin => ?_,
    fun hlater hprime hdrain => ?_, fun hemit hin => ?_, fun hemit hdrain => ?_⟩, fun c _ => c.ingestAt_eq⟩
  · subst hfirst
    rw [Config.opsAt_first, Config.inputStage_frame hin]
    rfl
  · rw [Config.opsAt_later c hlater, Config.inputStage_frame hin, emitStage_prime hprime]
    rfl
  · rw [Config.opsAt_later c hlater, Config.inputStage_drain hdrain, emitStage_prime hprime]
    rfl
  · rw [Config.opsAt_later c (Nat.zero_lt_of_lt hemit), Config.inputStage_frame hin, emitStage_emit hemit]
    rfl
  · rw [Config.opsAt_later c (Nat.zero_lt_of_lt hemit), Config.inputStage_drain hdrain, emitStage_emit hemit]
    rfl

/-- The one ingest of a row one pixel wide (R91). -/
theorem Config.ingests_narrow {c : Config} (hw : c.w = 1) :
    (List.range c.w).map c.ingestAt = [.ingestLR] := by
  simp [hw, Config.ingestAt]

/-- The ingests of a wider row, in column order (R91). -/
theorem Config.ingests_wide {c : Config} (hw : 2 ≤ c.w) :
    (List.range c.w).map c.ingestAt =
      .ingestL :: (List.replicate (c.w - 2) .ingestM ++ [.ingestR]) := by
  obtain ⟨n, hn⟩ := Nat.exists_eq_add_of_le' hw
  obtain ⟨-, hleft, -, -⟩ := c.ingestAt_eq (col := 0) (by omega)
  obtain ⟨-, -, hright, -⟩ := c.ingestAt_eq (col := n + 1) (by omega)
  have hfirst : c.ingestAt 0 = .ingestL := hleft.2 ⟨rfl, hw⟩
  have hlast : c.ingestAt (n + 1) = .ingestR := hright.2 ⟨by omega, hw⟩
  have hmiddle : (List.range n).map (c.ingestAt ∘ Nat.succ) = List.replicate n .ingestM := by
    refine List.eq_replicate_iff.2 ⟨by simp, List.forall_mem_map.2 fun k hk => ?_⟩
    have hk : k < n := List.mem_range.1 hk
    obtain ⟨-, -, -, hinterior⟩ := c.ingestAt_eq (col := k + 1) (by omega)
    exact hinterior.2 ⟨by omega, by omega⟩
  rw [hn, List.range_succ_eq_map, List.range_succ]
  simp [hfirst, hlast, hmiddle]

section Counts

variable (c : Config) (i : Instr)

/-- How often an operation stands at one position, stage by stage (R90). -/
theorem Config.count_opsAt (row col : Nat) : (c.opsAt row col).count i =
    (if row < c.h then [.adaptIn, .gray].count i + [c.ingestAt col].count i else 0) +
    (if 2 < row then [.winInsert, .edge, .emit, .expand, .adaptOut].count i else 0) +
    (if row = 0 then [.topFixup].count i else [.rowShift].count i) + [.advance].count i := by
  rw [Config.opsAt, List.count_append, List.count_append, List.count_append, Config.inputStage, emitStage,
    Config.OFFSET_eq, ← List.count_append (l₁ := [Instr.adaptIn, .gray])]
  split_ifs <;> rfl

/-- How often it stands at some positions of a row: the ingest alone depends on the column (R90, R91). -/
theorem Config.count_positions (row : Nat) (cols : List Nat) : (cols.flatMap (c.opsAt row)).count i =
    (if row < c.h then cols.length * [.adaptIn, .gray].count i + (cols.map c.ingestAt).count i else 0) +
    (if 2 < row then cols.length * [.winInsert, .edge, .emit, .expand, .adaptOut].count i else 0) +
    (if row = 0 then cols.length * [.topFixup].count i else cols.length * [.rowShift].count i) +
    cols.length * [.advance].count i := by
  induction cols with
  | nil => simp
  | cons col cols ih =>
    have hingest : ((col :: cols).map c.ingestAt).count i =
        [c.ingestAt col].count i + (cols.map c.ingestAt).count i := List.count_append (l₁ := [_]) ..
    rw [List.flatMap_cons, List.count_append, ih, Config.count_opsAt, hingest, List.length_cons]
    split_ifs <;> ring

/-- The scan rows of a frame: `h` of them have an input stage, `h` an emit stage, and one is the first (R7,
R60). -/
theorem sum_rows (h input emit first later every : Nat) :
    ((List.range (h + 3)).map fun row => (if row < h then input else 0) + (if 2 < row then emit else 0) +
      (if row = 0 then first else later) + every).sum =
    h * input + h * emit + (first + (h + 2) * later) + (h + 3) * every := by
  have hinput : ∑ row ∈ Finset.range (h + 3), (if row < h then input else 0) = h * input := by
    have hframe : ∑ row ∈ Finset.range h, (if row < h then input else 0) =
        ∑ _row ∈ Finset.range h, input :=
      Finset.sum_congr rfl fun row hrow => if_pos (Finset.mem_range.1 hrow)
    simp [Finset.sum_range_succ, hframe]
  have hemit : ∑ row ∈ Finset.range (h + 3), (if 2 < row then emit else 0) = h * emit := by
    simp [Finset.sum_range_succ']
  have hshift : ∑ row ∈ Finset.range (h + 3), (if row = 0 then first else later) =
      first + (h + 2) * later := by
    simp [Finset.sum_range_succ' _ (h + 2), add_comm first]
  change ∑ row ∈ Finset.range (h + 3), _ = _
  rw [Finset.sum_add_distrib, Finset.sum_add_distrib, Finset.sum_add_distrib, hinput, hemit, hshift,
    Finset.sum_const, Finset.card_range, smul_eq_mul]

/-- How often an operation stands in the frame program (R92). -/
theorem Config.count_frameProgram : c.frameProgram.count i = [.frameStart].count i +
    (c.h * (c.w * [.adaptIn, .gray].count i + ((List.range c.w).map c.ingestAt).count i) +
      c.h * (c.w * [.winInsert, .edge, .emit, .expand, .adaptOut].count i) +
      (c.w * [.topFixup].count i + (c.h + 2) * (c.w * [.rowShift].count i)) +
      (c.h + 3) * (c.w * [.advance].count i)) + [.frameEnd].count i := by
  rw [Config.frameProgram, List.count_append, ← List.singleton_append, List.count_append, List.count_flatMap]
  simp only [Function.comp_def, Config.scanRow, Config.count_positions, List.length_range]
  rw [Config.rows_eq, sum_rows]

end Counts

/-- Settles O7: `count_frameProgram`, with the ingests of a row listed for `W = 1` and for `W ≥ 2`. -/
theorem operationCountsPerFrame : Obligations.OperationCountsPerFrame := by
  intro c hw _ n
  have hpix : c.h * c.w = c.w * c.h := mul_comm ..
  simp only [n, Config.count_frameProgram]
  obtain hw | hw : c.w = 1 ∨ 2 ≤ c.w := by omega
  · rw [Config.ingests_narrow hw]
    simp [hw]
  · have hne : c.w ≠ 1 := by omega
    have hrow : c.h * (c.w - 2) + c.h + c.h = c.w * c.h := by
      obtain ⟨n, hn⟩ := Nat.exists_eq_add_of_le' hw
      rw [hn, Nat.add_sub_cancel]
      ring
    rw [Config.ingests_wide hw]
    simp [List.count_replicate, hw, hne, hpix, hrow]

end Sys2Proof
end

section
/-! PROOFS. Where a value that leaves the core comes from, and that every one is binary (R84, R162): O45. -/

namespace Sys2Proof.Machine

/-- EDGE's result is one of the two edge values (R84, R160). -/
theorem edgeOf_binary (c : Config) (w : Window) : edgeOf c w = 0 ∨ edgeOf c w = 255 := by
  rw [edgeOf, edgeValue]
  split
  · exact .inr rfl
  · exact .inl rfl

/-- EXPAND makes a binary beat of a binary edge value (R84, R180). -/
theorem expandOf_binary {e : Byte} (h : e = 0 ∨ e = 255) : (expandOf e).IsBinary := by
  rcases h with rfl | rfl
  · exact .inl rfl
  · exact .inr rfl

section Sources

variable {i : Instr} {s t : State}

/-- A beat of the output was there or is the latch `p_out` (R182). -/
theorem exec_output_mem (h : exec i s = .next t) {p : Rgb} (hp : p ∈ t.output) :
    p ∈ s.output ∨ s.pOut = some p := by
  obtain ⟨-, -, -, -, -, -, -, -, houtput, -⟩ := onlyTheNamedOperationsWriteEachField i s t h
  by_cases hsame : t.output = s.output
  · exact .inl (hsame ▸ hp)
  obtain rfl := houtput hsame
  obtain ⟨-, ⟨-, rfl⟩ | ⟨-, q, hq, rfl⟩⟩ := exec_adaptOut_next.1 h
  · exact absurd rfl hsame
  · rcases List.mem_append.1 hp with hp | hp
    · exact .inl hp
    · exact .inr (List.mem_singleton.1 hp ▸ hq)

/-- An emission event was recorded before or carries the latch `e_out` (R126). -/
theorem exec_emissions_mem (h : exec i s = .next t) {e : Nat × Byte} (he : e ∈ t.emissions) :
    e ∈ s.emissions ∨ s.eOut = some e.2 := by
  obtain ⟨-, -, -, -, -, -, -, -, -, -, -, hemissions, -⟩ := onlyTheNamedOperationsWriteEachField i s t h
  by_cases hsame : t.emissions = s.emissions
  · exact .inl (hsame ▸ he)
  obtain rfl := hemissions hsame
  obtain ⟨-, v, hv, rfl⟩ := exec_emit_next.1 h
  rcases List.mem_append.1 he with he | he
  · exact .inl he
  · exact .inr (List.mem_singleton.1 he ▸ hv)

/-- The latch `e_out` holds what it held or EDGE's result (R29, R160). -/
theorem exec_eOut (h : exec i s = .next t) {e : Byte} (he : t.eOut = some e) :
    s.eOut = some e ∨ e = edgeOf s.cfg s.win := by
  obtain ⟨-, -, -, -, -, -, -, -, -, -, -, -, -, -, hwriter, -⟩ :=
    onlyTheNamedOperationsWriteEachField i s t h
  by_cases hsame : t.eOut = s.eOut
  · exact .inl (hsame ▸ he)
  obtain rfl := hwriter e he hsame
  obtain ⟨-, rfl⟩ := exec_edge_next.1 h
  exact .inr (Option.some.inj he).symm

/-- The latch `p_out` holds what it held or EXPAND's result for `e_out` (R29, R180). -/
theorem exec_pOut (h : exec i s = .next t) {p : Rgb} (hp : t.pOut = some p) :
    s.pOut = some p ∨ ∃ e, s.eOut = some e ∧ p = expandOf e := by
  obtain ⟨-, -, -, -, -, -, -, -, -, -, -, -, -, -, -, hwriter, -⟩ :=
    onlyTheNamedOperationsWriteEachField i s t h
  by_cases hsame : t.pOut = s.pOut
  · exact .inl (hsame ▸ hp)
  obtain rfl := hwriter p hp hsame
  obtain ⟨-, e, he, rfl⟩ := exec_expand_next.1 h
  exact .inr ⟨e, he, (Option.some.inj hp).symm⟩

/-- Every micro-operation keeps the binary invariant: an output comes from `p_out`, that and an event from
`e_out`, and that from EDGE (R84). -/
theorem exec_binary (hs : s.Binary) (h : exec i s = .next t) : t.Binary := by
  obtain ⟨houtput, hemissions, heOut, hpOut⟩ := hs
  simp only [Option.mem_toList] at heOut hpOut
  refine ⟨fun p hp => ?_, fun e he => ?_, fun e he => ?_, fun p hp => ?_⟩
  · exact (exec_output_mem h hp).elim (houtput p) (hpOut p)
  · exact (exec_emissions_mem h he).elim (hemissions e) (heOut e.2)
  · obtain hheld | rfl := exec_eOut h (Option.mem_toList.1 he)
    · exact heOut e hheld
    · exact edgeOf_binary ..
  · obtain hheld | ⟨e, he, rfl⟩ := exec_pOut h (Option.mem_toList.1 hp)
    · exact hpOut p hheld
    · exact expandOf_binary (heOut e he)

end Sources

/-- Settles O45: a step that answers a next state ran one micro-operation. -/
theorem stepKeepsOutputsBinary : Obligations.StepKeepsOutputsBinary := by
  intro s t hs h
  obtain ⟨-, i, -, hi⟩ := step_next h
  exact exec_binary hs hi

end Sys2Proof.Machine
end

section
/-! PROOFS. The grayscale converter: GRAY (R110): O10; its result (R111): O11. -/

namespace Sys2Proof

/-- GRAY stands right after ADAPT_IN, in the rows of the frame alone (R90, R110). -/
theorem Config.opsAt_gray {c : Config} {row col k : Nat} :
    (c.opsAt row col)[k]? = some .gray ↔ row < c.h ∧ k = 1 := by
  have hingest : Instr.gray ≠ c.ingestAt col := by
    obtain ⟨h, -⟩ | ⟨h, -⟩ | ⟨h, -⟩ | ⟨h, -⟩ := c.ingestAt_cases col <;> rw [h] <;> decide
  rw [Config.opsAt_getElem?]
  simp [hingest]

namespace Machine

/-- Reading an unset latch is the fault of the operation at its position (R29, R231). -/
theorem readLatch_unset {α : Type} {latch : Option α} {i : Instr} {s : State} {use : α → Result}
    (h : latch = none) : readLatch latch i s use = .fault (.latchUnset i s.row s.col) :=
  readLatch_fault.2 (.inl ⟨h, rfl⟩)

/-- GRAY with `p_in` unset stops the model (R110, R231). -/
theorem exec_gray_unset {s : State} (hdue : s.scheduled = some .gray) (hlatch : s.pIn = none) :
    exec .gray s = .fault (.latchUnset .gray s.row s.col) :=
  (issue_scheduled hdue).trans (readLatch_unset hlatch)

/-- Settles O10. -/
theorem graySumsChannelEighths : Obligations.GraySumsChannelEighths :=
  ⟨rfl, fun _ _ _ _ _ => Config.opsAt_gray,
    fun _ p hdue hlatch => exec_gray_next.2 ⟨hdue, p, hlatch, rfl⟩, fun _ => exec_gray_unset⟩

/-- An eighth of a channel is at most 31, so the sum of three never wraps (R110, R111). -/
theorem toNat_grayOf (p : Rgb) :
    (grayOf p).toNat = p.r.toNat / 8 + p.g.toNat / 8 + p.b.toNat / 8 := by
  rw [grayOf, BitVec.toNat_ofNat, GRAY_DIV]
  omega

/-- The greatest gray value is `3 · 31` (R111). -/
theorem toNat_grayOf_le (p : Rgb) : (grayOf p).toNat ≤ 93 := by
  rw [toNat_grayOf]
  omega

/-- The beat `(8a, 8b, 8c)` has the gray value `a + b + c` (R111). -/
theorem toNat_grayOf_eights {a b c : Nat} (ha : a ≤ 31) (hb : b ≤ 31) (hc : c ≤ 31) :
    (grayOf ⟨BitVec.ofNat 8 (8 * a), BitVec.ofNat 8 (8 * b), BitVec.ofNat 8 (8 * c)⟩).toNat = a + b + c := by
  simp only [toNat_grayOf, BitVec.toNat_ofNat]
  omega

/-- Every value up to 93 is a sum of three eighths: fill the channels one after another (R111). -/
theorem exists_toNat_grayOf {n : Nat} (h : n ≤ 93) : ∃ p : Rgb, (grayOf p).toNat = n := by
  have hsum : min n 31 + min (n - 31) 31 + (n - 62) = n := by omega
  exact ⟨_, (toNat_grayOf_eights (by omega) (by omega) (by omega)).trans hsum⟩

/-- Two beats with the same sum of eighths have the same gray value. -/
theorem grayOf_congr {p q : Rgb} (h : p.r.toNat / 8 + p.g.toNat / 8 + p.b.toNat / 8 =
    q.r.toNat / 8 + q.g.toNat / 8 + q.b.toNat / 8) : grayOf p = grayOf q :=
  congrArg (BitVec.ofNat 8) h

/-- The three low bits of a channel do not reach its eighth (R111). -/
theorem eighth_low_bits (r m : Byte) (h : m.toNat < 8) :
    ((r &&& 0xF8) ||| m).toNat / 8 = r.toNat / 8 := by
  have hm : m.toNat >>> 3 = 0 := by simp only [Nat.shiftRight_eq_div_pow]; omega
  have hr : (r.toNat >>> 3) &&& 31 = r.toNat >>> 3 := by
    rw [Nat.and_two_pow_sub_one_eq_mod _ 5, Nat.shiftRight_eq_div_pow]
    omega
  calc ((r &&& 0xF8) ||| m).toNat / 8
      = ((r.toNat &&& 0xF8) ||| m.toNat) >>> 3 := by
        rw [BitVec.toNat_or, BitVec.toNat_and, Nat.shiftRight_eq_div_pow]; rfl
    _ = ((r.toNat >>> 3) &&& 31) ||| (m.toNat >>> 3) := by
        rw [Nat.shiftRight_or_distrib, Nat.shiftRight_and_distrib]; rfl
    _ = r.toNat / 8 := by rw [hm, hr, Nat.or_zero, Nat.shiftRight_eq_div_pow]

/-- Settles O11: the result is the sum of the eighths (`toNat_grayOf`), symmetric and monotone in the channels. -/
theorem grayResultProperties : Obligations.GrayResultProperties := by
  refine ⟨toNat_grayOf, toNat_grayOf_le, fun _ => exists_toNat_grayOf, fun r g b => ⟨?_, ?_⟩,
    fun r g b m hm => ?_, fun r r' g b h => ?_⟩
  · exact grayOf_congr (by simp only [add_comm])
  · exact grayOf_congr (by simp only [add_right_comm])
  · exact grayOf_congr (by simp only [eighth_low_bits r m hm])
  · simp only [toNat_grayOf]
    gcongr

end Machine

end Sys2Proof
end

section
/-! PROOFS. The margin columns are never read (R134): O48. -/

namespace Sys2Proof

/-- A column is its five cells: where the cells are the same, so is the column. -/
theorem LineBuffer.getElem?_eq_of_cell {lb lb' : LineBuffer} {c : Nat} (h : ∀ d, lb.cell c d = lb'.cell c d) :
    lb[c]? = lb'[c]? := by
  unfold LineBuffer.cell at h
  cases hx : lb[c]? with
  | none => simpa [hx, eq_comm] using h 0
  | some x =>
    cases hy : lb'[c]? with
    | none => simp [hx, hy] at h
    | some y =>
      simp only [hx, hy, Option.map_some, Option.some.injEq] at h
      rw [Five.ext_get h]

/-- Two line buffers of one length that differ at most outside the frame columns (R17, R134). -/
def LineBuffer.AgreeOffMargins (w : Nat) (lb lb' : LineBuffer) : Prop :=
  lb.length = lb'.length ∧ ∀ c d, 2 ≤ c → c < w + 2 → lb.cell c d = lb'.cell c d

namespace LineBuffer.AgreeOffMargins

variable {w : Nat} {lb lb' : LineBuffer}

theorem refl (w : Nat) (lb : LineBuffer) : lb.AgreeOffMargins w lb :=
  ⟨rfl, fun _ _ _ _ => rfl⟩

/-- The whole column of a frame column is the same. -/
theorem column (h : lb.AgreeOffMargins w lb') {c : Nat} (h2 : 2 ≤ c) (hw : c < w + 2) : lb[c]? = lb'[c]? :=
  LineBuffer.getElem?_eq_of_cell fun d => h.2 c d h2 hw

/-- Rewriting a column keeps the agreement. -/
theorem update (h : lb.AgreeOffMargins w lb') (k : Nat) (f : Cells → Cells) :
    (lb.update k f).AgreeOffMargins w (lb'.update k f) := by
  refine ⟨by simpa using h.1, fun c d h2 hw => ?_⟩
  rw [LineBuffer.cell_update, LineBuffer.cell_update, h.column h2 hw, h.2 c d h2 hw]

/-- Writing one value into the newest depth of any columns keeps the agreement. -/
theorem writeNewest (h : lb.AgreeOffMargins w lb') (cols : List Nat) (v : Byte) :
    (lb.writeNewest cols v).AgreeOffMargins w (lb'.writeNewest cols v) := by
  refine ⟨by simpa using h.1, fun c d h2 hw => ?_⟩
  rw [LineBuffer.cell_writeNewest, LineBuffer.cell_writeNewest, h.1, h.2 c d h2 hw]

end LineBuffer.AgreeOffMargins

namespace Machine

/-- The state with another line buffer in its place. -/
def State.withLb (s : State) (lb : LineBuffer) : State :=
  { s with lb := lb }

section Shared

variable {i : Instr} {s : State} {lb : LineBuffer}

@[simp] theorem State.withLb_lb : (s.withLb lb).lb = lb := rfl
@[simp] theorem State.withLb_input : (s.withLb lb).input = s.input := rfl
@[simp] theorem State.withLb_discarding : (s.withLb lb).discarding = s.discarding := rfl
@[simp] theorem State.withLb_scheduled : (s.withLb lb).scheduled = s.scheduled := rfl
@[simp] theorem State.withLb_standing : (s.withLb lb).standing = s.standing := rfl
@[simp] theorem State.withLb_fetch : (s.withLb lb).fetch = s.fetch := rfl
@[simp] theorem State.withLb_outputFull : (s.withLb lb).outputFull = s.outputFull := rfl
@[simp] theorem State.withLb_statusFull : (s.withLb lb).statusFull = s.statusFull := rfl

/-- Agreeing states are one state with two line buffers. -/
theorem State.agreeOffMargins_iff {t : State} : s.AgreeOffMargins t ↔
    ∃ lb, t = s.withLb lb ∧ s.lb.AgreeOffMargins s.cfg.w lb := by
  constructor
  · rintro ⟨hrest, hlb⟩
    refine ⟨t.lb, ?_, hlb⟩
    calc t = ({ t with lb := [] } : State).withLb t.lb := rfl
      _ = s.withLb t.lb := by rw [← hrest]; rfl
  · rintro ⟨lb, rfl, hlb⟩
    exact ⟨rfl, hlb⟩

/-- One next state with two agreeing line buffers. -/
theorem Result.AgreeOffMargins.next (h : s.lb.AgreeOffMargins s.cfg.w lb) :
    Result.AgreeOffMargins (.next s) (.next (s.withLb lb)) :=
  State.agreeOffMargins_iff.2 ⟨lb, rfl, h⟩

/-- An outcome agrees with itself. -/
theorem Result.AgreeOffMargins.refl (r : Result) : Result.AgreeOffMargins r r := by
  cases r with
  | next s => exact .next (lb := s.lb) (.refl ..)
  | fault f => rfl
  | refused why => rfl

/-- The schedule does not look at the line buffer (R93). -/
theorem issue_agree {body body' : Result} (h : Result.AgreeOffMargins body body') :
    Result.AgreeOffMargins (issue i s body) (issue i (s.withLb lb) body') := by
  unfold issue
  rw [State.withLb_scheduled]
  split
  · exact h
  · rfl

/-- A latch's value, or its fault, does not depend on the line buffer (R231). -/
theorem readLatch_agree {α : Type} {latch : Option α} {use use' : α → Result}
    (h : ∀ v, Result.AgreeOffMargins (use v) (use' v)) :
    Result.AgreeOffMargins (readLatch latch i s use) (readLatch latch i (s.withLb lb) use') := by
  cases latch with
  | none => rfl
  | some v => exact h v

/-- Which columns exist depends on the length alone (R55). -/
theorem reachColumns_agree {cols : List Nat} {body body' : Result} (hlen : s.lb.length = lb.length)
    (h : Result.AgreeOffMargins body body') :
    Result.AgreeOffMargins (reachColumns cols s body) (reachColumns cols (s.withLb lb) body') := by
  unfold reachColumns
  rw [State.withLb_lb, hlen]
  split
  · exact h
  · rfl

/-- The four ingests write the same value into both line buffers (R121–R124). -/
theorem ingest_agree (h : s.lb.AgreeOffMargins s.cfg.w lb) (cols : List Nat) :
    Result.AgreeOffMargins (ingest i cols s) (ingest i cols (s.withLb lb)) :=
  issue_agree (reachColumns_agree h.1 (readLatch_agree fun v => .next (h.writeNewest cols v)))

/-- A discard does not look at the line buffer (R224). -/
theorem State.discardFrame_agree (h : s.lb.AgreeOffMargins s.cfg.w lb) (count : Nat) :
    (s.discardFrame count).AgreeOffMargins ((s.withLb lb).discardFrame count) := by
  refine State.agreeOffMargins_iff.2 ⟨lb, ?_⟩
  unfold State.discardFrame
  rw [State.withLb_input]
  cases afterBoundary s.input with
  | none => exact ⟨rfl, h⟩
  | some rest => exact ⟨rfl, h⟩

/-- Neither does raising a FrameError, or the hold in its place (R224, R253). -/
theorem raiseFrameError_agree (h : s.lb.AgreeOffMargins s.cfg.w lb) (rest : List InItem)
    (cause : FrameCause) (count : Nat) :
    Result.AgreeOffMargins (raiseFrameError s rest cause count)
      (raiseFrameError (s.withLb lb) rest cause count) := by
  unfold raiseFrameError
  rw [State.withLb_statusFull]
  split
  · exact .next h
  · cases cause with
    | short => exact .next h
    | long => exact State.discardFrame_agree (s := ({ s with input := rest }).statusPush _) h count

/-- The next position does not depend on the line buffer (R129). -/
theorem State.nextPosition_agree (h : s.lb.AgreeOffMargins s.cfg.w lb) :
    s.nextPosition.AgreeOffMargins (s.withLb lb).nextPosition := by
  refine State.agreeOffMargins_iff.2 ⟨lb, ?_⟩
  unfold State.nextPosition State.withLb
  dsimp only
  split_ifs <;> exact ⟨rfl, h⟩

/-- EVERY MICRO-OPERATION answers alike on line buffers that differ in the margin columns: a fix-up, a shift
and WIN_INSERT reach a frame column, an ingest writes without reading, and no other looks (R134). -/
theorem exec_agree (i : Instr) (h : s.lb.AgreeOffMargins s.cfg.w lb) (hcol : s.col < s.cfg.w) :
    Result.AgreeOffMargins (exec i s) (exec i (s.withLb lb)) := by
  cases i with
  | frameStart => exact issue_agree (.refl _)
  | ingestM | ingestL | ingestR | ingestLR => exact ingest_agree h _
  | topFixup | rowShift => exact issue_agree (reachColumns_agree h.1 (.next (h.update _ _)))
  | gray | emit | expand => exact issue_agree (readLatch_agree fun _ => .next h)
  | edge => exact issue_agree (.next h)
  | advance =>
    exact issue_agree (State.nextPosition_agree (s := { s.clearLatches with upc := 0, trace := s.trace.tail }) h)
  | winInsert =>
    refine issue_agree ?_
    have hcolumn : s.lb[s.c0]? = lb[(s.withLb lb).c0]? :=
      h.column (c := s.col + 2) (Nat.le_add_left ..) (Nat.add_lt_add_right hcol 2)
    rw [State.withLb_lb, ← hcolumn]
    cases s.lb[s.c0]? with
    | none => rfl
    | some column => exact .next h
  | adaptIn =>
    refine issue_agree ?_
    rw [State.withLb_input]
    rcases s.input with _ | ⟨_ | _, rest⟩
    · exact .next h
    · exact .next h
    · exact raiseFrameError_agree h _ _ _
  | adaptOut =>
    refine issue_agree ?_
    rw [State.withLb_outputFull]
    split
    · exact .next h
    · exact readLatch_agree fun _ => .next h
  | frameEnd =>
    refine issue_agree ?_
    rw [State.withLb_input, State.withLb_discarding, State.withLb_statusFull]
    split
    · exact State.discardFrame_agree h _
    · exact .next h
    · split <;> exact .next h
    · exact raiseFrameError_agree h _ _ _

end Shared

/-- Settles O48: what stands and what is fetched do not depend on the line buffer, and the operation fetched
answers alike. -/
theorem marginColumnsAreNeverRead : Obligations.MarginColumnsAreNeverRead := by
  intro s t hst hcol
  obtain ⟨lb, rfl, hlb⟩ := State.agreeOffMargins_iff.1 hst
  unfold step
  rw [State.withLb_standing, State.withLb_fetch]
  split
  · exact .refl _
  · split
    · rfl
    · exact exec_agree _ hlb hcol

end Machine

end Sys2Proof
end

section
/-! PROOFS. The four ingests (R121–R124): O12, O13, O14 and O15. -/

namespace Sys2Proof

/-- An ingest stands right after GRAY, in the rows of the frame alone, and is its column's variant (R90, R91). -/
theorem Config.opsAt_ingest {c : Config} {row col k : Nat} {i : Instr}
    (hi : i = .ingestM ∨ i = .ingestL ∨ i = .ingestR ∨ i = .ingestLR) :
    (c.opsAt row col)[k]? = some i ↔ row < c.h ∧ c.ingestAt col = i ∧ k = 2 := by
  rw [Config.opsAt_getElem?]
  rcases hi with rfl | rfl | rfl | rfl <;> simp [eq_comm, and_comm]

namespace Machine

/-- The current column exists wherever the position is in range (R24, R55). -/
theorem State.c0_exists {s : State} (hlen : s.lb.length = s.cfg.w + 4) (hcol : s.col < s.cfg.w) :
    ∀ c ∈ [s.c0], c < s.lb.length := by
  intro c hc
  obtain rfl : c = s.col + 2 := List.mem_singleton.1 hc
  omega

section Ingest

variable {i : Instr} {cols : List Nat} {s : State}

/-- What the four ingests share (R121–R124): the latch goes into depth 4 of each column of the list, and nothing
else of the state changes but the index. -/
theorem ingest_effect (hdue : s.scheduled = some i) (hin : ∀ c ∈ cols, c < s.lb.length) {g : Byte}
    (hg : s.gIn = some g) : ∃ lb : LineBuffer,
      ingest i cols s = .next { s with lb := lb, upc := s.upc + 1, trace := s.trace.tail } ∧
      lb.length = s.lb.length ∧
      ∀ c d, lb.cell c d = if c ∈ cols ∧ d = 4 then some g else s.lb.cell c d := by
  refine ⟨s.lb.writeNewest cols g, ingest_next.2 ⟨hdue, hin, g, hg, rfl⟩, by simp, fun c d => ?_⟩
  rw [LineBuffer.cell_writeNewest]
  exact if_congr ⟨fun ⟨hc, _, hd⟩ => ⟨hc, hd⟩, fun ⟨hc, hd⟩ => ⟨hc, hin c hc, hd⟩⟩ rfl rfl

/-- An ingest with `g_in` unset stops the model, once its columns exist (R55, R231). -/
theorem ingest_unset (hdue : s.scheduled = some i) (hin : ∀ c ∈ cols, c < s.lb.length) (hg : s.gIn = none) :
    ingest i cols s = .fault (.latchUnset i s.row s.col) := by
  rw [ingest, issue_scheduled hdue, reachColumns_within hin, readLatch_unset hg]

end Ingest

/-- Settles O12. -/
theorem ingestMStoresAnInteriorPixel : Obligations.IngestMStoresAnInteriorPixel := by
  refine ⟨rfl, fun c row col index hcol => ?_, fun s g hdue hlen hcol hg => ?_, fun s hdue hlen hcol =>
    ingest_unset hdue (State.c0_exists hlen hcol)⟩
  · obtain ⟨-, -, -, hvariant⟩ := c.ingestAt_eq hcol
    rw [Config.opsAt_ingest (by simp), hvariant]
  · obtain ⟨lb, hexec, hlb, hcells⟩ := ingest_effect hdue (State.c0_exists hlen hcol) hg
    exact ⟨lb, hexec, hlb, by simpa [State.c0] using hcells⟩

/-- Settles O13. -/
theorem ingestLReplicatesIntoTheLeftMargin : Obligations.IngestLReplicatesIntoTheLeftMargin := by
  have hin : ∀ s : State, s.lb.length = s.cfg.w + 4 → ∀ c ∈ leftColumns, c < s.lb.length := by
    intro s hlen c hc
    rw [mem_leftColumns] at hc
    omega
  refine ⟨rfl, fun c row col index hcol => ?_, fun s g hdue hlen hg => ?_, fun s hdue hlen =>
    ingest_unset hdue (hin s hlen)⟩
  · obtain ⟨-, hvariant, -⟩ := c.ingestAt_eq hcol
    rw [Config.opsAt_ingest (by simp), hvariant]
  · obtain ⟨lb, hexec, hlb, hcells⟩ := ingest_effect hdue (hin s hlen) hg
    exact ⟨lb, hexec, hlb, by simpa [mem_leftColumns, Nat.lt_succ_iff] using hcells⟩

/-- Settles O14: where INGEST_R is due the frame is at least two columns wide. -/
theorem ingestRReplicatesIntoTheRightMargin : Obligations.IngestRReplicatesIntoTheRightMargin := by
  have hwide : ∀ s : State, s.scheduled = some .ingestR → 1 ≤ s.cfg.w := by
    intro s hdue
    have hcol : 0 < s.col ∧ s.col = s.cfg.w - 1 := by
      simpa [State.ingestAt_of_scheduled (by simp) hdue] using s.cfg.ingestAt_cases s.col
    omega
  have hin : ∀ s : State, s.scheduled = some .ingestR → s.lb.length = s.cfg.w + 4 →
      ∀ c ∈ s.cfg.rightColumns, c < s.lb.length := by
    intro s hdue hlen c hc
    rw [Config.mem_rightColumns (hwide s hdue)] at hc
    omega
  refine ⟨rfl, fun c row col index hcol => ?_, fun s g hdue hlen hg => ?_, fun s hdue hlen =>
    ingest_unset hdue (hin s hdue hlen)⟩
  · obtain ⟨-, -, hvariant, -⟩ := c.ingestAt_eq hcol
    rw [Config.opsAt_ingest (by simp), hvariant]
  · obtain ⟨lb, hexec, hlb, hcells⟩ := ingest_effect hdue (hin s hdue hlen) hg
    exact ⟨lb, hexec, hlb, by simpa [Config.mem_rightColumns (hwide s hdue), and_assoc] using hcells⟩

/-- Settles O15. -/
theorem ingestLRReplicatesBothWays : Obligations.IngestLRReplicatesBothWays := by
  have hin : ∀ s : State, 1 ≤ s.cfg.w → s.lb.length = s.cfg.w + 4 → ∀ c ∈ bothColumns, c < s.lb.length := by
    intro s hw hlen c hc
    rw [mem_bothColumns] at hc
    omega
  refine ⟨rfl, fun c row col index hcol => ?_, fun s g hdue hw hlen hg => ?_, fun s hdue hw hlen =>
    ingest_unset hdue (hin s hw hlen)⟩
  · obtain ⟨hvariant, -⟩ := c.ingestAt_eq hcol
    rw [Config.opsAt_ingest (by simp), hvariant]
  · obtain ⟨lb, hexec, hlb, hcells⟩ := ingest_effect hdue (hin s hw hlen) hg
    exact ⟨lb, hexec, hlb, by simpa [mem_bothColumns] using hcells⟩

end Machine

end Sys2Proof
end

section
/-! PROOFS. The other operations of the window engine (R125–R129): O16, O18, O19, O20 and O21. -/

namespace Sys2Proof

/-- No ingest variant is one of the other operations of a position (R91). -/
theorem Config.ingestAt_ne (c : Config) (col : Nat) {i : Instr}
    (hi : i ∉ [.ingestM, .ingestL, .ingestR, .ingestLR]) : i ≠ c.ingestAt col := by
  rintro rfl
  obtain ⟨h, -⟩ | ⟨h, -⟩ | ⟨h, -⟩ | ⟨h, -⟩ := c.ingestAt_cases col <;> simp [h] at hi

section Where

variable {c : Config} {row col k : Nat}

/-- ADAPT_IN is the first operation of a position in the rows of the frame (R90, R181). -/
theorem Config.opsAt_adaptIn : (c.opsAt row col)[k]? = some .adaptIn ↔ row < c.h ∧ k = 0 := by
  rw [Config.opsAt_getElem?]
  simp [c.ingestAt_ne col (i := .adaptIn) (by decide)]

/-- WIN_INSERT begins the emit stage (R90, R125). -/
theorem Config.opsAt_winInsert : (c.opsAt row col)[k]? = some .winInsert ↔ 2 < row ∧ k = c.emitFrom row := by
  rw [Config.opsAt_getElem?]
  simp [c.ingestAt_ne col (i := .winInsert) (by decide)]

/-- EDGE stands right after WIN_INSERT (R90, R160). -/
theorem Config.opsAt_edge : (c.opsAt row col)[k]? = some .edge ↔ 2 < row ∧ k = c.emitFrom row + 1 := by
  rw [Config.opsAt_getElem?]
  simp [c.ingestAt_ne col (i := .edge) (by decide)]

/-- EMIT stands two after WIN_INSERT (R90, R126). -/
theorem Config.opsAt_emit : (c.opsAt row col)[k]? = some .emit ↔ 2 < row ∧ k = c.emitFrom row + 2 := by
  rw [Config.opsAt_getElem?]
  simp [c.ingestAt_ne col (i := .emit) (by decide)]

/-- ADAPT_OUT ends the emit stage (R90, R182). -/
theorem Config.opsAt_adaptOut : (c.opsAt row col)[k]? = some .adaptOut ↔ 2 < row ∧ k = c.emitFrom row + 4 := by
  rw [Config.opsAt_getElem?]
  simp [c.ingestAt_ne col (i := .adaptOut) (by decide)]

/-- TOP_FIXUP stands after the input stage, in the first row alone (R90, R127). -/
theorem Config.opsAt_topFixup : (c.opsAt row col)[k]? = some .topFixup ↔ row = 0 ∧ k = c.emitFrom row := by
  rw [Config.opsAt_getElem?]
  simp [c.ingestAt_ne col (i := .topFixup) (by decide)]

/-- ROW_SHIFT stands after the emit stage, in every row but the first (R90, R128). -/
theorem Config.opsAt_rowShift : (c.opsAt row col)[k]? = some .rowShift ↔ 0 < row ∧ k = c.shiftFrom row := by
  rw [Config.opsAt_getElem?]
  simp [c.ingestAt_ne col (i := .rowShift) (by decide)]

/-- ADVANCE is the last operation of every position (R90, R129). -/
theorem Config.opsAt_advance : (c.opsAt row col)[k]? = some .advance ↔ k = c.shiftFrom row + 1 := by
  rw [Config.opsAt_getElem?]
  simp [c.ingestAt_ne col (i := .advance) (by decide)]

end Where

namespace Machine

/-- Settles O16. -/
theorem winInsertShiftsAndInserts : Obligations.WinInsertShiftsAndInserts := by
  refine ⟨rfl, fun c row col index _ => Config.opsAt_winInsert, fun s hdue hlen hcol => ?_⟩
  have hlt : s.c0 < s.lb.length := State.c0_exists hlen hcol _ (List.mem_singleton_self _)
  have hcolumn : s.lb[s.c0]? = some s.lb[s.c0] := List.getElem?_eq_getElem hlt
  refine ⟨s.win.shiftIn s.lb[s.c0], exec_winInsert_next.2 ⟨hdue, _, hcolumn, rfl⟩, fun r => ?_, fun r => ?_⟩
  · rw [Window.get_shiftIn]
    exact ⟨rfl, rfl, rfl, rfl⟩
  · rw [Window.get_shiftIn, LineBuffer.cell]
    change _ = Option.map _ s.lb[s.c0]?
    rw [hcolumn]
    rfl

/-- Settles O18: the index is a row of the output and a column below `W`, so it divides back. -/
theorem emitRecordsTheEmissionIndex : Obligations.EmitRecordsTheEmissionIndex := by
  refine ⟨rfl, fun c row col index _ => ?_, fun s e hdue hlatch => exec_emit_next.2 ⟨hdue, e, hlatch, rfl⟩,
    fun s hdue hlatch => (issue_scheduled hdue).trans (readLatch_unset hlatch),
    fun c row col hemit hlast hcol => ⟨?_, ?_, ?_⟩⟩
  · rw [Config.opsAt_emit, Config.emitFrom]
    split_ifs <;> rfl
  · calc (row - 3) * c.w + col < (row - 3) * c.w + c.w := Nat.add_lt_add_left hcol _
      _ = (row - 2) * c.w := by rw [← Nat.succ_mul]; congr 1; omega
      _ ≤ c.h * c.w := Nat.mul_le_mul_right _ (by omega)
      _ = c.w * c.h := Nat.mul_comm ..
  · rw [Nat.mul_comm, Nat.mul_add_div (by omega), Nat.div_eq_of_lt hcol, Nat.add_zero]
  · rw [Nat.mul_comm, Nat.mul_add_mod, Nat.mod_eq_of_lt hcol]

/-- Settles O19. -/
theorem topFixupSeedsTheOlderDepths : Obligations.TopFixupSeedsTheOlderDepths := by
  refine ⟨rfl, fun c row col index _ => Config.opsAt_topFixup, fun s hdue hlen hcol =>
    ⟨_, exec_topFixup_next.2 ⟨hdue, State.c0_exists hlen hcol, rfl⟩, LineBuffer.length_update .., fun c d => ?_⟩⟩
  rw [LineBuffer.cell_update]
  simp only [Cells.get_seed]
  rfl

/-- Settles O20. -/
theorem rowShiftAgesOneColumn : Obligations.RowShiftAgesOneColumn := by
  refine ⟨rfl, fun c row col index _ => Config.opsAt_rowShift, fun s hdue hlen hcol =>
    ⟨_, exec_rowShift_next.2 ⟨hdue, State.c0_exists hlen hcol, rfl⟩, LineBuffer.length_update ..,
      fun c d hc => ?_, ?_⟩⟩
  · rw [LineBuffer.cell_update]
    exact if_neg hc
  · have hcell : ∀ d, (s.lb.update s.c0 Cells.age).cell (s.col + 2) d =
        s.lb[s.col + 2]?.map fun x => x.age.get d := fun d => by
      rw [LineBuffer.cell_update]
      exact if_pos rfl
    exact ⟨hcell 0, hcell 1, hcell 2, hcell 3, hcell 4⟩

/-- Settles O21. -/
theorem advanceMovesInRasterOrder : Obligations.AdvanceMovesInRasterOrder :=
  ⟨rfl, fun _ _ _ _ _ => Config.opsAt_advance, fun _ hdue => exec_advance_next.2 ⟨hdue, rfl⟩⟩

end Machine

end Sys2Proof
end

section
/-! PROOFS. Which input pixels a window holds, from the closed form of the window (R132, R133, R135, R137; E5):
O54, O55 and O57. -/

namespace Sys2Proof.Machine

section ClosedForm

variable {c : Config} {g : Nat → Nat → Byte} {win0 : Window} {m : Nat} {r k : Fin 5}

@[simp] theorem get_windowAfter : ((windowAfter c g win0 m).get r).get k = windowCellAfter c g win0 m r k := by
  simp only [windowAfter, Five.get_ofFn]

/-- A cell inserted in this frame: the insertion `y·W + x` put it there from scan row `y + 3`, column `x` (R132). -/
theorem windowCellAfter_inserted {y x : Nat} (hx : x < c.w) (h : m + k.val = y * c.w + x + 5) :
    windowCellAfter c g win0 m r k = g (cv c ((y : Int) - 1 + (r.val : Int))) x := by
  have he : m + k.val - 5 = c.w * y + x := by rw [h, Nat.mul_comm]; rfl
  rw [windowCellAfter, if_pos (by omega)]
  dsimp only
  rw [he, Nat.mul_add_div (by omega), Nat.div_eq_of_lt hx, Nat.mul_add_mod, Nat.mod_eq_of_lt hx, Nat.add_zero]

/-- A cell no insertion has reached is Win0's, shifted left (R132, R135). -/
theorem windowCellAfter_initial (h : m + k.val < 5) :
    windowCellAfter c g win0 m r k = (win0.get r).get (Fin.ofNat 5 (m + k.val)) :=
  if_neg (by omega)

/-- At an output column from 4 on, the window's columns are the five frame columns up to the output's (R133). -/
theorem windowCellAfter_at_output {o j : Nat} (hj : 4 ≤ j) (hjw : j < c.w) :
    windowCellAfter c g win0 (o * c.w + j + 1) r k = g (cv c ((o : Int) - 1 + (r.val : Int))) (j - 4 + k.val) :=
  windowCellAfter_inserted (by omega) (by omega)

end ClosedForm

/-- Two images or two frame-start windows that give a window the same cells give the same beat. -/
theorem frameBeat_congr {c : Config} {g g' : Nat → Nat → Byte} {win0 win0' : Window} {n : Nat}
    (h : ∀ r k, windowCellAfter c g win0 (n + 1) r k = windowCellAfter c g' win0' (n + 1) r k) :
    frameBeat c g win0 n = frameBeat c g' win0' n := by
  have hwin : windowAfter c g win0 (n + 1) = windowAfter c g' win0' (n + 1) :=
    Five.ext_get fun r => Five.ext_get fun k => by simpa using h r k
  rw [frameBeat, frameBeat, hwin]

/-- Settles O54: the insertion that put a cell there is four less its column back, in the row before if the
output column is less than that. -/
theorem outputIsRegisteredOneDownTwoLeft : Obligations.OutputIsRegisteredOneDownTwoLeft := by
  intro c g win0 o j r k hjw
  refine ⟨fun hj => ?_, fun hj ho hw => ?_⟩
  · rw [get_windowAfter, windowCellAfter_at_output hj hjw, sub_add_eq_add_sub]
  · obtain ⟨y, rfl⟩ := Nat.exists_eq_add_of_le' ho
    rw [get_windowAfter]
    split_ifs with hk
    · have hrow : ((y + 1 : Nat) : Int) + r.val - 2 = (y : Int) - 1 + r.val := by omega
      rw [windowCellAfter_inserted (y := y) (x := c.w - 4 + j + k.val) (by omega) (by rw [Nat.succ_mul]; omega),
        hrow]
    · rw [windowCellAfter_inserted (y := y + 1) (x := j + k.val - 4) (by omega) (by omega), sub_add_eq_add_sub]

/-- Settles O55. -/
theorem onlyTheFirstFourOutputsDependOnWin0 : Obligations.OnlyTheFirstFourOutputsDependOnWin0 := by
  refine ⟨fun c g win0 win0' n hn => frameBeat_congr fun r k => ?_, fun c g win0 n r k hn hk => ?_⟩
  · rw [windowCellAfter, windowCellAfter, if_pos (by omega), if_pos (by omega)]
  · refine ⟨Fin.ofNat 5 (n + 1 + k.val), ?_, ?_⟩
    · rw [Fin.val_ofNat, Nat.mod_eq_of_lt (by omega)]
      omega
    · rw [get_windowAfter, windowCellAfter_initial (by omega)]

/-- Settles O57: from output column 5 on, the leftmost of the window's frame columns is not column 0. -/
theorem columnZeroReachesOnlyFiveOutputColumns : Obligations.ColumnZeroReachesOnlyFiveOutputColumns := by
  intro c g g' win0 o j hsame hj hjw
  refine frameBeat_congr fun r k => ?_
  rw [windowCellAfter_at_output (by omega) hjw, windowCellAfter_at_output (by omega) hjw, hsame _ _ (by omega)]

end Sys2Proof.Machine
end

section
/-! PROOFS. Where a position stands: which of its operations have run (R36, R90), and how many pixels, insertions
and emissions lie before it (R39). -/

namespace Sys2Proof

/-- No operation stands twice at a position (R90). -/
theorem Config.nodup_opsAt (c : Config) (row col : Nat) : (c.opsAt row col).Nodup := by
  unfold Config.opsAt Config.inputStage emitStage
  obtain ⟨h, -⟩ | ⟨h, -⟩ | ⟨h, -⟩ | ⟨h, -⟩ := c.ingestAt_cases col <;> rw [h] <;> split_ifs <;> decide

/-- The column's own ingest ends the input stage (R90, R91). -/
theorem Config.opsAt_ingestAt {c : Config} {row col k : Nat} :
    (c.opsAt row col)[k]? = some (c.ingestAt col) ↔ row < c.h ∧ k = 2 := by
  have hvariant : c.ingestAt col = .ingestM ∨ c.ingestAt col = .ingestL ∨ c.ingestAt col = .ingestR ∨
      c.ingestAt col = .ingestLR := by
    obtain ⟨h, -⟩ | ⟨h, -⟩ | ⟨h, -⟩ | ⟨h, -⟩ := c.ingestAt_cases col <;> simp [h]
  rw [Config.opsAt_ingest hvariant, eq_self, true_and]

namespace Machine

section Performed

variable {s : State} {i j : Instr}

/-- In SCAN, what has run at the position is what stands before the index (R36). -/
theorem State.mem_performed (hp : s.phase = .scan) :
    j ∈ s.performed ↔ ∃ k < s.upc, (s.cfg.opsAt s.row s.col)[k]? = some j := by
  refine ⟨fun h => ?_, fun ⟨k, hk, hat⟩ => State.performed_before hp hat hk⟩
  simp only [State.performed, hp] at h
  obtain ⟨k, hk, rfl⟩ := List.mem_take_iff_getElem.1 h
  exact ⟨k, by omega, List.getElem?_eq_getElem _⟩

/-- An operation with one index, at some positions, has run there once the index is past it (R36). -/
theorem State.mem_performed_at {there : Prop} {k : Nat} (hp : s.phase = .scan)
    (hat : ∀ n, (s.cfg.opsAt s.row s.col)[n]? = some j ↔ there ∧ n = k) :
    j ∈ s.performed ↔ there ∧ k < s.upc := by
  rw [State.mem_performed hp]
  constructor
  · rintro ⟨n, hn, h⟩
    obtain ⟨hthere, rfl⟩ := (hat n).1 h
    exact ⟨hthere, hn⟩
  · exact fun ⟨hthere, hk⟩ => ⟨k, hk, (hat k).2 ⟨hthere, rfl⟩⟩

/-- The operation that is due has not run at its position yet (R36, R90). -/
theorem State.not_performed_of_scheduled (hp : s.phase = .scan) (hs : s.scheduled = some i) :
    i ∉ s.performed := by
  rw [State.scheduled_scan hp] at hs
  rw [State.mem_performed hp]
  rintro ⟨k, hk, hat⟩
  have hlen : s.upc < (s.cfg.opsAt s.row s.col).length := (List.getElem?_eq_some_iff.1 hs).1
  exact List.nodup_iff_getElem?_ne_getElem?.1 (s.cfg.nodup_opsAt s.row s.col) k s.upc hk hlen (hat.trans hs.symm)

/-- The fix-up or shift has run once the index is past its place (R127, R128). -/
theorem State.shifted_iff (hp : s.phase = .scan) : s.shifted ↔ s.cfg.shiftFrom s.row < s.upc := by
  unfold State.shifted
  rw [State.mem_performed_at hp fun _ => Config.opsAt_topFixup,
    State.mem_performed_at hp fun _ => Config.opsAt_rowShift]
  rcases Nat.eq_zero_or_pos s.row with hrow | hrow
  · simp [hrow, Config.shiftFrom]
  · simp [hrow, hrow.ne']

/-- The ingest of the position's column has run once the index is past it (R91). -/
theorem State.ingested_iff (hp : s.phase = .scan) :
    s.cfg.ingestAt s.col ∈ s.performed ↔ s.row < s.cfg.h ∧ 2 < s.upc :=
  State.mem_performed_at hp fun _ => Config.opsAt_ingestAt

/-- Where ADVANCE is due, every other operation of the position has run (R90, R129). -/
theorem State.mem_performed_at_advance {there : Prop} {k : Nat} (hs : s.scheduled = some .advance)
    (hat : ∀ n, (s.cfg.opsAt s.row s.col)[n]? = some j ↔ there ∧ n = k)
    (hk : there → k ≤ s.cfg.shiftFrom s.row) :
    j ∈ s.performed ↔ there := by
  obtain ⟨hp, hdue⟩ := (State.scheduled_other (by decide) (by decide)).1 hs
  have hupc := Config.opsAt_advance.1 hdue
  rw [State.mem_performed_at hp hat]
  exact ⟨fun h => h.1, fun h => ⟨h, hupc ▸ Nat.lt_succ_of_le (hk h)⟩⟩

end Performed

section Counts

variable {s t : State}

/-- In the rows of the frame, the pixels before a position are its raster index (R39). -/
theorem State.nIn_frame (h : s.row < s.cfg.h) : s.nIn = s.row * s.cfg.w + s.col := by
  rw [State.nIn, if_pos h, Nat.min_eq_left h.le]

/-- In the drain rows every pixel lies before (R39). -/
theorem State.nIn_drain (h : s.cfg.h ≤ s.row) : s.nIn = s.cfg.npix := by
  rw [State.nIn, if_neg (Nat.not_lt.2 h), Nat.min_eq_right h, Nat.add_zero, Nat.mul_comm, Config.npix]

/-- In the rows with an emit stage, the outputs before a position are its emission index (R39, R126). -/
theorem State.nOut_emit (h : 2 < s.row) : s.nOut = (s.row - 3) * s.cfg.w + s.col := by
  rw [State.nOut, Config.OFFSET_eq, if_pos h]
  rfl

/-- `t` stands at the position after `s` in raster order (R61). -/
def State.PrecedesPosition (s t : State) : Prop :=
  t.cfg = s.cfg ∧
    (t.row = s.row ∧ t.col = s.col + 1 ∨ s.col + 1 = s.cfg.w ∧ t.row = s.row + 1 ∧ t.col = 0)

/-- A position in the rows of the frame takes one pixel (R39). -/
theorem State.PrecedesPosition.nIn (h : s.PrecedesPosition t) :
    t.nIn = s.nIn + if s.row < s.cfg.h then 1 else 0 := by
  obtain ⟨hcfg, ⟨hrow, hcol⟩ | ⟨hlast, hrow, hcol⟩⟩ := h <;> unfold State.nIn <;> rw [hcfg, hrow, hcol]
  · split_ifs <;> omega
  · by_cases hin : s.row < s.cfg.h
    · rw [Nat.min_eq_left hin, Nat.min_eq_left hin.le, Nat.succ_mul, if_pos hin, if_pos hin]
      split_ifs <;> omega
    · rw [Nat.min_eq_right (by omega), Nat.min_eq_right (by omega), if_neg hin, if_neg hin, if_neg (by omega)]

/-- A position of the rows with an emit stage gives one output (R39). -/
theorem State.PrecedesPosition.nOut (h : s.PrecedesPosition t) :
    t.nOut = s.nOut + if 2 < s.row then 1 else 0 := by
  obtain ⟨hcfg, ⟨hrow, hcol⟩ | ⟨hlast, hrow, hcol⟩⟩ := h <;> unfold State.nOut <;>
    rw [hcfg, hrow, hcol, Config.OFFSET_eq]
  · split_ifs <;> omega
  · by_cases hemit : 2 < s.row
    · have hnext : s.row + 1 - 2 - 1 = s.row - 2 - 1 + 1 := by omega
      rw [hnext, Nat.succ_mul, if_pos hemit, if_pos hemit]
      split_ifs <;> omega
    · have hnext : s.row + 1 - 2 - 1 = 0 := by omega
      have hthis : s.row - 2 - 1 = 0 := by omega
      rw [hnext, hthis, if_neg hemit, if_neg hemit]
      split_ifs <;> omega

end Counts

end Machine

end Sys2Proof
end

section
/-! PROOFS. The closed forms of a line-buffer column and of the window, one row and one insertion on (R131, R132). -/

namespace Sys2Proof

/-- Shifting a row left moves every cell one to the left and puts the new one last (R125). -/
theorem Cells.get_shiftIn (x : Cells) (v : Byte) (k : Fin 5) :
    (x.shiftIn v).get k = if k = 4 then v else x.get (k + 1) := by
  fin_cases k <;> rfl

namespace Machine

section Column

variable {c : Config} {g : Nat → Nat → Byte}

/-- A row of the frame is not clamped (R18). -/
theorem cv_of_lt {y : Nat} (h : y < c.h) : cv c y = y := by
  unfold cv
  omega

/-- Rows below the frame are its last row (R18). -/
theorem cv_of_ge {y : Int} (h : (c.h : Int) - 1 ≤ y) : cv c y = c.h - 1 := by
  unfold cv
  omega

/-- Rows above the frame are its first row (R18). -/
theorem cv_of_nonpos {y : Int} (h : y ≤ 0) : cv c y = 0 := by
  unfold cv
  omega

/-- The vertical run that ends at row `y`, depth by depth (R131). -/
theorem verticalRun_eq (y : Int) (x : Nat) : verticalRun c g (y - 4) x =
    ⟨g (cv c (y - 4)) x, g (cv c (y - 3)) x, g (cv c (y - 2)) x, g (cv c (y - 1)) x, g (cv c y) x⟩ := by
  have h1 : y - 4 + 1 = y - 3 := by omega
  have h2 : y - 4 + 2 = y - 2 := by omega
  have h3 : y - 4 + 3 = y - 1 := by omega
  simp [verticalRun, Five.ofFn, h1, h2, h3]

/-- What the row before `y` left behind, depth by depth (R131). -/
theorem agedRun_pred (y : Int) (x : Nat) : agedRun c g (y - 1) x =
    ⟨g (cv c (y - 4)) x, g (cv c (y - 3)) x, g (cv c (y - 2)) x, g (cv c (y - 1)) x, g (cv c (y - 1)) x⟩ := by
  simp only [agedRun, sub_sub]
  rfl

/-- TOP_FIXUP makes the run of the first row out of its pixel (R127, R131). -/
theorem seed_of_first_row {x : Nat} {cells : Cells} (h : cells.a4 = g 0 x) : cells.seed = agedRun c g 0 x := by
  simp [Cells.seed, agedRun, h, cv_of_nonpos]

/-- ROW_SHIFT ages a complete run (R128, R131). -/
theorem age_verticalRun (y : Int) (x : Nat) : (verticalRun c g (y - 4) x).age = agedRun c g y x := by
  rw [verticalRun_eq]
  rfl

/-- The pixel of row `y` completes the run that the row before has aged (R121, R131). -/
theorem setNewest_agedRun {y : Nat} (h : y < c.h) (x : Nat) :
    (agedRun c g ((y : Int) - 1) x).setNewest (g y x) = verticalRun c g ((y : Int) - 4) x := by
  rw [verticalRun_eq, agedRun_pred, cv_of_lt h]
  rfl

/-- Below the frame an aged run is complete as it is: the last row stands for the missing one (R131). -/
theorem agedRun_below {y : Nat} (h : c.h ≤ y) (x : Nat) :
    agedRun c g ((y : Int) - 1) x = verticalRun c g ((y : Int) - 4) x := by
  rw [verticalRun_eq, agedRun_pred, cv_of_ge (y := (y : Int) - 1) (by omega), cv_of_ge (y := (y : Int)) (by omega)]

end Column

section Insertion

variable {c : Config} {g : Nat → Nat → Byte} {win0 : Window}

/-- Before the first insertion the window is Win0 (R132). -/
theorem windowAfter_zero : windowAfter c g win0 0 = win0 := by
  refine Five.ext_get fun r => Five.ext_get fun k => ?_
  rw [get_windowAfter, windowCellAfter_initial (by omega), Nat.zero_add]
  simp

/-- Insertion `y·W + x` shifts in the vertical run of column `x` that ends at row `y + 3` (R125, R132). -/
theorem windowAfter_succ {y x m : Nat} (hx : x < c.w) (hm : m = y * c.w + x) :
    windowAfter c g win0 (m + 1) = (windowAfter c g win0 m).shiftIn (verticalRun c g ((y : Int) - 1) x) := by
  refine Five.ext_get fun r => Five.ext_get fun k => ?_
  rw [Window.get_shiftIn, Cells.get_shiftIn, get_windowAfter]
  split_ifs with hk
  · rw [windowCellAfter_inserted (y := y) hx (by rw [hk, hm]; rfl), verticalRun, Five.get_ofFn]
  · have hnext : (k + 1).val = k.val + 1 := by omega
    rw [get_windowAfter, windowCellAfter, windowCellAfter, hnext, Nat.add_right_comm, Nat.add_assoc m]

end Insertion

end Machine

end Sys2Proof
end

section
/-! PROOFS. The frame invariant (R39, R131, R132, R136, R202): FRAME_START begins it, O50; the column WIN_INSERT
takes, O52. -/

namespace Sys2Proof.Machine

/-- The columns of a frame track the closed form only in what they hold, the position and the progress there:
another state that has these in common tracks it too. -/
theorem State.ColumnTracks.congr {s t : State} {g : Nat → Nat → Byte} {x : Nat} (h : s.ColumnTracks g x)
    (hcfg : t.cfg = s.cfg) (hrow : t.row = s.row) (hcol : t.col = s.col)
    (hlb : t.lb[x + 2]? = s.lb[x + 2]?)
    (hshifted : x = s.col → (t.shifted ↔ s.shifted))
    (hingested : x = s.col → (s.cfg.ingestAt x ∈ t.performed ↔ s.cfg.ingestAt x ∈ s.performed)) :
    t.ColumnTracks g x := by
  obtain ⟨cells, hcells, hdone, hunder, hbefore⟩ := h
  refine ⟨cells, hlb.trans hcells, ?_, ?_, ?_⟩ <;> rw [hcfg, hrow, hcol]
  · rintro (hx | ⟨hx, hsh⟩)
    · exact hdone (.inl hx)
    · exact hdone (.inr ⟨hx, (hshifted hx).1 hsh⟩)
  · exact fun hx hin hsh => hunder hx ((hingested hx).1 hin) (mt (hshifted hx).2 hsh)
  · rintro (hx | ⟨hx, hin, hsh⟩)
    · exact hbefore (.inl hx)
    · exact hbefore (.inr ⟨hx, mt (hingested hx).2 hin, mt (hshifted hx).2 hsh⟩)

section Tracks

variable {s : State} {frame : List Rgb} {win0 : Window} {rest : List InItem} {out0 : List Rgb}
  {em0 : List (Nat × Byte)}

/-- Between the input stage and the shift, the current column is the complete run that ends at this row, whether
its last pixel was ingested or the last row of the frame stands for it (R131). -/
theorem State.FrameTracks.column_complete (ht : s.FrameTracks frame win0 rest out0 em0) (hcol : s.col < s.cfg.w)
    (hp : s.phase = .scan) (hrow : 0 < s.row) (hinput : s.cfg.emitFrom s.row ≤ s.upc)
    (hshift : s.upc ≤ s.cfg.shiftFrom s.row) :
    s.lb[s.col + 2]? = some (verticalRun s.cfg (grayImage s.cfg frame) ((s.row : Int) - 4) s.col) := by
  obtain ⟨cells, hcells, -, hunder, hbefore⟩ := ht.columns s.col hcol
  have hno : ¬ s.shifted := mt (State.shifted_iff hp).1 (Nat.not_lt.2 hshift)
  refine hcells.trans (congrArg some ?_)
  by_cases hin : s.row < s.cfg.h
  · have hthree : 3 ≤ s.upc := by simpa [Config.emitFrom, hin] using hinput
    exact (hunder rfl ((State.ingested_iff hp).2 ⟨hin, hthree⟩) hno).2 hrow
  · have hdrain : s.cfg.ingestAt s.col ∉ s.performed := fun h => hin ((State.ingested_iff hp).1 h).1
    rw [hbefore (.inr ⟨rfl, hdrain, hno⟩) hrow, agedRun_below (Nat.le_of_not_lt hin)]

/-- At the start of a well-formed frame the invariant holds, whatever the window and the line buffer hold: nothing
has been consumed, inserted or emitted, and of a column that no pixel has reached in the first row the invariant
says only that it exists (R28, R39). -/
theorem State.frameTracks_at_start (hp : s.phase = .scan) (hrow : s.row = 0) (hcol : s.col = 0) (hupc : s.upc = 0)
    (hlatch : s.LatchesUnset) (hlb : s.lb.length = s.cfg.lbw) (hno : s.discarding = false) (htrace : s.trace = [])
    (hlen : frame.length = s.cfg.npix) (hinput : s.input = frameItems frame ++ rest) :
    s.FrameTracks frame s.win rest s.output s.emissions := by
  obtain ⟨hpIn, hgIn, heOut, hpOut⟩ := hlatch
  have hnone : s.performed = [] := State.performed_of_upc_zero hp hupc
  have hin : s.nIn = 0 := by simp [State.nIn, hrow, hcol]
  have hout : s.nOut = 0 := by simp [State.nOut, hrow]
  have hconsumed : s.consumed = 0 := by simp [State.consumed, hin, hnone]
  have hinserted : s.inserted = 0 := by simp [State.inserted, hout, hnone]
  have hemitted : s.emitted = 0 := by simp [State.emitted, hout, hnone]
  have hproduced : s.produced = 0 := by simp [State.produced, hout, hnone]
  exact {
    frame_length := hlen
    running := by simp [hp]
    no_discard := hno
    free_running := htrace
    input_left := by simp [hinput, hconsumed, frameItems]
    columns := fun x hx => by
      have hlt : x + 2 < s.lb.length := by rw [hlb, Config.lbw_eq]; omega
      have hsh : ¬ s.shifted := by simp [State.shifted, hnone]
      exact ⟨_, List.getElem?_eq_getElem hlt, by simp [hcol, hsh], by simp [hnone], by simp [hrow]⟩
    window := by rw [hinserted, windowAfter_zero]
    latch_p := by simp [hpIn]
    latch_g := by simp [hgIn]
    latch_e := by simp [heOut]
    latch_o := by simp [hpOut]
    emissions_so_far := by simp [hemitted]
    output_so_far := by simp [hproduced] }

end Tracks

/-- Settles O52: WIN_INSERT comes right after the input stage. -/
theorem columnAtEmissionIsTheClampedVerticalRun : Obligations.ColumnAtEmissionIsTheClampedVerticalRun := by
  intro s frame win0 rest out0 em0 d hinv hg ht hdue
  obtain ⟨-, hrange, -⟩ := hinv
  obtain ⟨hp, hat⟩ := (State.scheduled_other (by decide) (by decide)).1 hdue
  obtain ⟨hrow, hupc⟩ := Config.opsAt_winInsert.1 hat
  have hcolumn := ht.column_complete (hrange hg).2 hp (by omega) hupc.ge (hupc.trans_le (Nat.le_add_right ..))
  rw [LineBuffer.cell, hcolumn, Option.map_some, verticalRun, Five.get_ofFn]

/-- Settles O50. -/
theorem frameStartBeginsTracking : Obligations.FrameStartBeginsTracking := by
  intro s frame rest _ hidle hno htrace hlen hinput
  have hdue : s.scheduled = some .frameStart := State.scheduled_frameStart.2 hidle
  refine ⟨_, exec_frameStart_next.2 ⟨hdue, rfl⟩, ?_⟩
  exact State.frameTracks_at_start rfl rfl rfl rfl ⟨rfl, rfl, rfl, rfl⟩ (by simp) hno (by simp [htrace]) hlen hinput

end Sys2Proof.Machine
end

section
/-! PROOFS. How an operation of a frame's position goes on to the next index, and what it counts (R36, R39). -/

namespace Sys2Proof.Machine

section Retire

variable {i : Instr} {s t : State}

/-- `t` stands at the next index of the position where `s` stands, with the same status queue (R36). -/
def State.RetiresTo (s t : State) : Prop :=
  t.cfg = s.cfg ∧ t.phase = s.phase ∧ t.row = s.row ∧ t.col = s.col ∧ t.upc = s.upc + 1 ∧
    t.discarding = s.discarding ∧ t.trace = s.trace.tail ∧ t.status = s.status

/-- An operation in the middle of a position that is not held, and finds a pixel if it is ADAPT_IN, goes on to the
next index (R36). -/
theorem exec_retires (hi : i ∉ [.frameStart, .advance, .frameEnd]) (h : exec i s = .next t)
    (hfree : s.outputFull = false) (hbeat : i = .adaptIn → ∃ p items, s.input = .beat p :: items) :
    s.RetiresTo t := by
  cases i with
  | frameStart | advance | frameEnd => simp at hi
  | adaptIn =>
    obtain ⟨p, items, hin⟩ := hbeat rfl
    obtain ⟨-, ⟨hin', -⟩ | ⟨p, items, -, rfl⟩ | ⟨items, hin', -⟩ | ⟨items, hin', -⟩⟩ := exec_adaptIn_next.1 h
    · exact nomatch hin.symm.trans hin'
    · exact ⟨rfl, rfl, rfl, rfl, rfl, rfl, rfl, rfl⟩
    · exact nomatch hin.symm.trans hin'
    · exact nomatch hin.symm.trans hin'
  | gray =>
    obtain ⟨-, p, -, rfl⟩ := exec_gray_next.1 h
    exact ⟨rfl, rfl, rfl, rfl, rfl, rfl, rfl, rfl⟩
  | ingestM | ingestL | ingestR | ingestLR =>
    obtain ⟨-, -, g, -, rfl⟩ := ingest_next.1 h
    exact ⟨rfl, rfl, rfl, rfl, rfl, rfl, rfl, rfl⟩
  | winInsert =>
    obtain ⟨-, column, -, rfl⟩ := exec_winInsert_next.1 h
    exact ⟨rfl, rfl, rfl, rfl, rfl, rfl, rfl, rfl⟩
  | edge =>
    obtain ⟨-, rfl⟩ := exec_edge_next.1 h
    exact ⟨rfl, rfl, rfl, rfl, rfl, rfl, rfl, rfl⟩
  | emit =>
    obtain ⟨-, e, -, rfl⟩ := exec_emit_next.1 h
    exact ⟨rfl, rfl, rfl, rfl, rfl, rfl, rfl, rfl⟩
  | expand =>
    obtain ⟨-, e, -, rfl⟩ := exec_expand_next.1 h
    exact ⟨rfl, rfl, rfl, rfl, rfl, rfl, rfl, rfl⟩
  | adaptOut =>
    obtain ⟨-, ⟨hfull, -⟩ | ⟨-, p, -, rfl⟩⟩ := exec_adaptOut_next.1 h
    · exact nomatch hfull.symm.trans hfree
    · exact ⟨rfl, rfl, rfl, rfl, rfl, rfl, rfl, rfl⟩
  | topFixup =>
    obtain ⟨-, -, rfl⟩ := exec_topFixup_next.1 h
    exact ⟨rfl, rfl, rfl, rfl, rfl, rfl, rfl, rfl⟩
  | rowShift =>
    obtain ⟨-, -, rfl⟩ := exec_rowShift_next.1 h
    exact ⟨rfl, rfl, rfl, rfl, rfl, rfl, rfl, rfl⟩

end Retire

/-- An unbounded output queue is never full (R32, R253). -/
theorem State.Unbounded.outputFull {s : State} (h : s.Unbounded) : s.outputFull = false := by
  rw [State.outputFull, h.1]
  rfl

/-- An unbounded status queue is never full (R32, R253). -/
theorem State.Unbounded.statusFull {s : State} (h : s.Unbounded) : s.statusFull = false := by
  rw [State.statusFull, h.2]
  rfl

/-- In SCAN neither FRAME_START nor FRAME_END is due (R200, R201). -/
theorem State.not_frame_end_of_scan {i : Instr} {s : State} (hp : s.phase = .scan) (hs : s.scheduled = some i) :
    i ≠ .frameStart ∧ i ≠ .frameEnd := by
  refine ⟨fun hi => ?_, fun hi => ?_⟩ <;> subst hi
  · exact nomatch hp.symm.trans (State.scheduled_frameStart.1 hs)
  · exact nomatch hp.symm.trans (State.scheduled_frameEnd.1 hs)

/-- Where ADVANCE is due, it alone has not run (R90, R129). -/
theorem State.performed_at_advance {s : State} (hs : s.scheduled = some .advance) :
    s.performed ++ [.advance] = s.cfg.opsAt s.row s.col := by
  obtain ⟨hp, hat⟩ := (State.scheduled_other (by decide) (by decide)).1 hs
  have hlen : (s.cfg.opsAt s.row s.col).length = s.upc + 1 := by
    rw [Config.length_opsAt, Config.opsAt_advance.1 hat]
  have hall := List.take_of_length_le hlen.le
  rw [List.take_add_one, hat] at hall
  rw [State.performed, hp]
  exact hall

/-- `t` is `s` with the operation `i` of its position run, the frame still in progress. -/
structure State.Continues (i : Instr) (s t : State) : Prop where
  cfg : t.cfg = s.cfg
  row : t.row = s.row
  col : t.col = s.col
  running : t.phase ≠ .idle
  no_discard : t.discarding = false
  free_running : t.trace = []
  status : t.status = s.status
  fresh : i ∉ s.performed
  performed : t.performed = s.performed ++ [i]

namespace State.Continues

variable {i : Instr} {s t : State} (hc : s.Continues i t)

include hc

theorem mem_performed {j : Instr} : j ∈ t.performed ↔ j ∈ s.performed ∨ i = j := by
  rw [hc.performed, List.mem_append, List.mem_singleton, eq_comm (a := i)]

theorem nIn : t.nIn = s.nIn := by
  unfold State.nIn
  rw [hc.cfg, hc.row, hc.col]

theorem nOut : t.nOut = s.nOut := by
  unfold State.nOut
  rw [hc.cfg, hc.row, hc.col]

/-- An operation that counts is counted when it runs, and no other changes the count. -/
theorem count (j : Instr) : (if j ∈ t.performed then 1 else 0) =
    (if j ∈ s.performed then 1 else 0) + if i = j then 1 else 0 := by
  have hfresh := hc.fresh
  simp only [hc.mem_performed]
  by_cases hij : i = j
  · subst hij
    simp [hfresh]
  · simp [hij]

theorem consumed : t.consumed = s.consumed + if i = .adaptIn then 1 else 0 := by
  rw [State.consumed, hc.nIn, hc.count, ← Nat.add_assoc]
  rfl

theorem inserted : t.inserted = s.inserted + if i = .winInsert then 1 else 0 := by
  rw [State.inserted, hc.nOut, hc.count, ← Nat.add_assoc]
  rfl

theorem emitted : t.emitted = s.emitted + if i = .emit then 1 else 0 := by
  rw [State.emitted, hc.nOut, hc.count, ← Nat.add_assoc]
  rfl

theorem produced : t.produced = s.produced + if i = .adaptOut then 1 else 0 := by
  rw [State.produced, hc.nOut, hc.count, ← Nat.add_assoc]
  rfl

theorem shifted : t.shifted ↔ s.shifted ∨ i = .topFixup ∨ i = .rowShift := by
  unfold State.shifted
  rw [hc.mem_performed, hc.mem_performed]
  tauto

end State.Continues

section Tracks

variable {i : Instr} {s t : State} {frame : List Rgb} {win0 : Window} {rest : List InItem} {out0 : List Rgb}
  {em0 : List (Nat × Byte)}

/-- Where ADAPT_IN is due in a frame, the next item is the position's pixel (R39, R181). -/
theorem State.FrameTracks.next_pixel (ht : s.FrameTracks frame win0 rest out0 em0) (hcol : s.col < s.cfg.w)
    (hdue : s.scheduled = some .adaptIn) : ∃ p, frame[s.nIn]? = some p ∧
      s.input = .beat p :: ((frame.drop (s.nIn + 1)).map InItem.beat ++ .boundary :: rest) := by
  obtain ⟨hp, hat⟩ := (State.scheduled_other (by decide) (by decide)).1 hdue
  obtain ⟨hrow, -⟩ := Config.opsAt_adaptIn.1 hat
  have hnone : s.consumed = s.nIn := by
    rw [State.consumed, if_neg (State.not_performed_of_scheduled hp hdue), Nat.add_zero]
  have hlt : s.nIn < frame.length := by
    calc s.nIn = s.row * s.cfg.w + s.col := State.nIn_frame hrow
      _ < (s.row + 1) * s.cfg.w := by rw [Nat.succ_mul]; omega
      _ ≤ s.cfg.h * s.cfg.w := Nat.mul_le_mul_right _ hrow
      _ = frame.length := by rw [ht.frame_length, Nat.mul_comm]; rfl
  refine ⟨frame[s.nIn], List.getElem?_eq_getElem hlt, ?_⟩
  rw [ht.input_left, hnone, List.drop_eq_getElem_cons hlt]
  rfl

/-- ADAPT_IN of a frame takes the position's pixel (R39, R181). -/
theorem State.FrameTracks.takes_pixel (ht : s.FrameTracks frame win0 rest out0 em0) (hcol : s.col < s.cfg.w)
    (h : exec .adaptIn s = .next t) : ∃ p, frame[s.nIn]? = some p ∧
      t = ({ s with
        input := (frame.drop (s.nIn + 1)).map InItem.beat ++ InItem.boundary :: rest, pIn := some p }).retire := by
  obtain ⟨hdue, hcases⟩ := exec_adaptIn_next.1 h
  obtain ⟨p, hp, hin⟩ := ht.next_pixel hcol hdue
  refine ⟨p, hp, ?_⟩
  rw [hin] at hcases
  simpa using hcases

/-- An operation of a frame's position leaves the frame in progress, with that operation run; so does the last
ADVANCE, which leaves the position where it is (R129). -/
theorem State.FrameTracks.continues (ht : s.FrameTracks frame win0 rest out0 em0) (hcol : s.col < s.cfg.w)
    (hunb : s.Unbounded) (hp : s.phase = .scan) (h : exec i s = .next t)
    (hlast : i = .advance → ¬ s.col + 1 < s.cfg.w ∧ ¬ s.row + 1 < s.cfg.h + 3) : s.Continues i t := by
  have hdue := exec_next_scheduled h
  have hfresh := State.not_performed_of_scheduled hp hdue
  by_cases hi : i = .advance
  · subst hi
    obtain ⟨hc, hr⟩ := hlast rfl
    obtain ⟨-, rfl⟩ := exec_advance_next.1 h
    obtain ⟨hc', -⟩ | ⟨-, hr', -⟩ | ⟨-, -, hnext⟩ :=
      State.nextPosition_cases { s.clearLatches with upc := 0, trace := s.trace.tail }
    · exact absurd hc' hc
    · exact absurd hr' hr
    · rw [hnext]
      exact ⟨rfl, rfl, rfl, nofun, ht.no_discard, by simp [ht.free_running], rfl, hfresh,
        (State.performed_at_advance hdue).symm⟩
  · obtain ⟨hstart, hend⟩ := State.not_frame_end_of_scan hp hdue
    have hmiddle : i ∉ [.frameStart, .advance, .frameEnd] := by simp [hi, hstart, hend]
    have hbeat : i = .adaptIn → ∃ p items, s.input = .beat p :: items := fun hi => by
      obtain ⟨p, -, hin⟩ := ht.next_pixel hcol (hi ▸ hdue)
      exact ⟨p, _, hin⟩
    obtain ⟨hcfg, hphase, hrow, hcol', hupc, hno, htrace, hstatus⟩ :=
      exec_retires hmiddle h hunb.outputFull hbeat
    exact ⟨hcfg, hrow, hcol', by simp [hphase, hp], hno.trans ht.no_discard, by simp [htrace, ht.free_running],
      hstatus, hfresh, State.performed_retired hdue hp (hphase.trans hp) hcfg hrow hcol' hupc⟩

end Tracks

end Sys2Proof.Machine
end

section
/-! PROOFS. What an operation of a frame's position leaves of the frame invariant, part by part. -/

namespace Sys2Proof.Machine

section Components

variable {i : Instr} {s t : State} {frame : List Rgb} {win0 : Window} {rest : List InItem} {out0 : List Rgb}
  {em0 : List (Nat × Byte)} (ht : s.FrameTracks frame win0 rest out0 em0) (h : exec i s = .next t)
  (hc : s.Continues i t)

include ht h hc

/-- ADAPT_IN takes the pixel it counts (R39, R181). -/
theorem State.Continues.input_left (hcol : s.col < s.cfg.w) (hp : s.phase = .scan) :
    t.input = (frame.drop t.consumed).map InItem.beat ++ .boundary :: rest := by
  rw [hc.consumed]
  by_cases hi : i = .adaptIn
  · subst hi
    obtain ⟨p, -, rfl⟩ := ht.takes_pixel hcol h
    rw [State.consumed, if_neg hc.fresh, if_pos rfl]
    rfl
  · obtain ⟨-, -, -, -, -, -, -, hinput, -⟩ := onlyTheNamedOperationsWriteEachField i s t h
    have hsame : t.input = s.input := by
      by_contra hne
      rcases hinput hne with rfl | rfl
      · exact hi rfl
      · exact (State.not_frame_end_of_scan hp (exec_next_scheduled h)).2 rfl
    rw [hsame, if_neg hi, ht.input_left, Nat.add_zero]

/-- WIN_INSERT shifts in the column that the closed form has next (R125, R131, R132). -/
theorem State.Continues.window (hcol : s.col < s.cfg.w) (hp : s.phase = .scan) :
    t.win = windowAfter t.cfg (grayImage t.cfg frame) win0 t.inserted := by
  rw [hc.inserted, hc.cfg]
  by_cases hi : i = .winInsert
  · subst hi
    obtain ⟨hdue, column, hcolumn, rfl⟩ := exec_winInsert_next.1 h
    obtain ⟨-, hat⟩ := (State.scheduled_other (by decide) (by decide)).1 hdue
    obtain ⟨hrow, hupc⟩ := Config.opsAt_winInsert.1 hat
    have hinserted : s.inserted = s.nOut := by rw [State.inserted, if_neg hc.fresh, Nat.add_zero]
    have hy : ((s.row - 3 : Nat) : Int) - 1 = (s.row : Int) - 4 := by omega
    have hcomplete :=
      ht.column_complete hcol hp (by omega) hupc.ge (hupc.trans_le (Nat.le_add_right ..))
    obtain rfl : column = _ := Option.some.inj (hcolumn.symm.trans hcomplete)
    rw [if_pos rfl, windowAfter_succ hcol (hinserted.trans (State.nOut_emit hrow)), ← ht.window, hy]
    rfl
  · obtain ⟨-, -, -, -, hwin, -⟩ := onlyTheNamedOperationsWriteEachField i s t h
    have hsame : t.win = s.win := by
      by_contra hne
      rcases hwin hne with rfl | rfl
      · exact (State.not_frame_end_of_scan hp (exec_next_scheduled h)).1 rfl
      · exact hi rfl
    rw [hsame, if_neg hi, ht.window, Nat.add_zero]

/-- `p_in` holds the position's pixel (R181). -/
theorem State.Continues.latch_p (hcol : s.col < s.cfg.w) {p : Rgb} (hv : t.pIn = some p) :
    frame[t.nIn]? = some p := by
  rw [hc.nIn]
  by_cases hsame : t.pIn = s.pIn
  · exact ht.latch_p p (hsame ▸ hv)
  · obtain ⟨-, -, -, -, -, -, -, -, -, -, -, -, hwriter, -⟩ := onlyTheNamedOperationsWriteEachField i s t h
    obtain rfl := hwriter p hv hsame
    obtain ⟨q, hq, rfl⟩ := ht.takes_pixel hcol h
    exact hq.trans hv

/-- `g_in` holds its gray value (R110). -/
theorem State.Continues.latch_g {v : Byte} (hv : t.gIn = some v) : v = grayImage t.cfg frame t.row t.col := by
  rw [hc.cfg, hc.row, hc.col]
  by_cases hsame : t.gIn = s.gIn
  · exact ht.latch_g v (hsame ▸ hv)
  · obtain ⟨-, -, -, -, -, -, -, -, -, -, -, -, -, hwriter, -⟩ := onlyTheNamedOperationsWriteEachField i s t h
    obtain rfl := hwriter v hv hsame
    obtain ⟨hdue, p, hpIn, rfl⟩ := exec_gray_next.1 h
    obtain ⟨hrow, -⟩ := Config.opsAt_gray.1 ((State.scheduled_other (by decide) (by decide)).1 hdue).2
    have hpixel := ht.latch_p p hpIn
    rw [State.nIn_frame hrow] at hpixel
    rw [← Option.some.inj hv, grayImage, List.getD_eq_getElem?_getD, hpixel]
    rfl

/-- `e_out` holds the edge value of the window that WIN_INSERT has made (R160). -/
theorem State.Continues.latch_e (hp : s.phase = .scan) {v : Byte} (hv : t.eOut = some v) :
    v = edgeOf t.cfg (windowAfter t.cfg (grayImage t.cfg frame) win0 (t.nOut + 1)) := by
  rw [hc.cfg, hc.nOut]
  by_cases hsame : t.eOut = s.eOut
  · exact ht.latch_e v (hsame ▸ hv)
  · obtain ⟨-, -, -, -, -, -, -, -, -, -, -, -, -, -, hwriter, -⟩ :=
      onlyTheNamedOperationsWriteEachField i s t h
    obtain rfl := hwriter v hv hsame
    obtain ⟨hdue, rfl⟩ := exec_edge_next.1 h
    obtain ⟨-, hat⟩ := (State.scheduled_other (by decide) (by decide)).1 hdue
    obtain ⟨hrow, hupc⟩ := Config.opsAt_edge.1 hat
    have hinsert : Instr.winInsert ∈ s.performed :=
      (State.mem_performed_at hp fun _ => Config.opsAt_winInsert).2 ⟨hrow, by omega⟩
    rw [← Option.some.inj hv, ht.window, State.inserted, if_pos hinsert]

/-- `p_out` holds the beat of the frame function (R180, R202). -/
theorem State.Continues.latch_o {p : Rgb} (hv : t.pOut = some p) :
    p = frameBeat t.cfg (grayImage t.cfg frame) win0 t.nOut := by
  rw [hc.cfg, hc.nOut]
  obtain hheld | ⟨e, he, rfl⟩ := exec_pOut h hv
  · exact ht.latch_o p hheld
  · rw [ht.latch_e e he, frameBeat]

/-- EMIT records the event that it counts (R126). -/
theorem State.Continues.emissions_so_far : t.emissions = em0 ++ (List.range t.emitted).map fun n =>
    (n, edgeOf t.cfg (windowAfter t.cfg (grayImage t.cfg frame) win0 (n + 1))) := by
  rw [hc.emitted, hc.cfg]
  by_cases hi : i = .emit
  · subst hi
    obtain ⟨hdue, e, he, rfl⟩ := exec_emit_next.1 h
    obtain ⟨hrow, -⟩ := Config.opsAt_emit.1 ((State.scheduled_other (by decide) (by decide)).1 hdue).2
    have hemitted : s.emitted = s.nOut := by rw [State.emitted, if_neg hc.fresh, Nat.add_zero]
    have hindex : s.emissionIndex = s.nOut := (State.nOut_emit hrow).symm
    rw [if_pos rfl, List.range_succ, List.map_append, ← List.append_assoc, ← ht.emissions_so_far, hemitted,
      State.retire_emissions, hindex, ht.latch_e e he]
    rfl
  · obtain ⟨-, -, -, -, -, -, -, -, -, -, -, hemissions, -⟩ := onlyTheNamedOperationsWriteEachField i s t h
    have hsame : t.emissions = s.emissions := by
      by_contra hne
      exact hi (hemissions hne)
    rw [hsame, if_neg hi, ht.emissions_so_far, Nat.add_zero]

/-- ADAPT_OUT pushes the beat that it counts (R182). -/
theorem State.Continues.output_so_far (hfree : s.outputFull = false) :
    t.output = out0 ++ (List.range t.produced).map fun n =>
      frameBeat t.cfg (grayImage t.cfg frame) win0 n := by
  rw [hc.produced, hc.cfg]
  by_cases hi : i = .adaptOut
  · subst hi
    obtain ⟨hdue, ⟨hfull, -⟩ | ⟨-, p, hpOut, rfl⟩⟩ := exec_adaptOut_next.1 h
    · exact nomatch hfull.symm.trans hfree
    have hproduced : s.produced = s.nOut := by rw [State.produced, if_neg hc.fresh, Nat.add_zero]
    rw [if_pos rfl, List.range_succ, List.map_append, ← List.append_assoc, ← ht.output_so_far, hproduced,
      State.retire_output, State.outPush_output, ht.latch_o p hpOut]
    rfl
  · obtain ⟨-, -, -, -, -, -, -, -, houtput, -⟩ := onlyTheNamedOperationsWriteEachField i s t h
    have hsame : t.output = s.output := by
      by_contra hne
      exact hi (houtput hne)
    rw [hsame, if_neg hi, ht.output_so_far, Nat.add_zero]

end Components

end Sys2Proof.Machine
end

section
/-! PROOFS. The line-buffer columns through the operations of a frame's position (R121–R124, R127, R128, R131). -/

namespace Sys2Proof

theorem LineBuffer.getElem?_update_same (lb : LineBuffer) (k : Nat) (f : Cells → Cells) :
    (lb.update k f)[k]? = lb[k]?.map f := by
  rw [LineBuffer.getElem?_update, if_pos rfl]

namespace Machine

section Writers

variable {i : Instr} {s t : State}

/-- The operations that write the line buffer within a frame (R120). -/
def writesLb : List Instr :=
  [.ingestM, .ingestL, .ingestR, .ingestLR, .topFixup, .rowShift]

/-- A frame column is left as it was unless it is the current one and the operation writes the line buffer. -/
theorem exec_column_same (h : exec i s = .next t) (hi : i ≠ .frameStart) {x : Nat} (hx : x < s.cfg.w)
    (hother : x = s.col → i ∉ writesLb) : t.lb[x + 2]? = s.lb[x + 2]? := by
  refine LineBuffer.getElem?_eq_of_cell fun d => ?_
  by_contra hne
  obtain ⟨hc, hwriter⟩ := exec_changes_cell h hi hne
  rcases State.reached_cases (exec_next_scheduled h) (by omega) hc with hcur | ⟨-, hmargin, -⟩
  · refine hother (by omega) ?_
    rcases hwriter with ⟨rfl | rfl | rfl | rfl, -⟩ | ⟨rfl | rfl, -⟩ <;> decide
  · omega

/-- An ingest reaches the current column, whichever variant it is (R120–R124). -/
theorem State.current_mem_reached (hi : i = .ingestM ∨ i = .ingestL ∨ i = .ingestR ∨ i = .ingestLR)
    (hs : s.scheduled = some i) (hcol : s.col < s.cfg.w) : s.col + 2 ∈ s.reached i := by
  have hvariant := s.cfg.ingestAt_cases s.col
  rw [State.ingestAt_of_scheduled hi hs] at hvariant
  rcases hi with rfl | rfl | rfl | rfl
  · exact List.mem_singleton_self _
  · have hfirst : s.col = 0 ∧ 2 ≤ s.cfg.w := by simpa using hvariant
    exact mem_leftColumns.2 (by omega)
  · have hlast : 0 < s.col ∧ s.col = s.cfg.w - 1 := by simpa using hvariant
    exact (Config.mem_rightColumns (by omega)).2 (by omega)
  · have honly : s.col = 0 ∧ s.cfg.w ≤ 1 := by simpa using hvariant
    exact mem_bothColumns.2 (by omega)

/-- An ingest writes its latch into the newest depth of the current column (R121–R124). -/
theorem exec_ingest_current (hi : i = .ingestM ∨ i = .ingestL ∨ i = .ingestR ∨ i = .ingestLR)
    (h : exec i s = .next t) (hcol : s.col < s.cfg.w) :
    ∃ v, s.gIn = some v ∧ t.lb[s.col + 2]? = s.lb[s.col + 2]?.map fun x => x.setNewest v := by
  have hcur := State.current_mem_reached hi (exec_next_scheduled h) hcol
  have hingest : ingest i (s.reached i) s = .next t := by
    rcases hi with rfl | rfl | rfl | rfl <;> exact h
  obtain ⟨-, -, v, hv, rfl⟩ := ingest_next.1 hingest
  exact ⟨v, hv, (LineBuffer.getElem?_writeNewest ..).trans (if_pos hcur)⟩

end Writers

section Columns

variable {i : Instr} {s t : State} {frame : List Rgb} {win0 : Window} {rest : List InItem} {out0 : List Rgb}
  {em0 : List (Nat × Byte)} (ht : s.FrameTracks frame win0 rest out0 em0) (hcol : s.col < s.cfg.w)
  (hp : s.phase = .scan) (h : exec i s = .next t) (hc : s.Continues i t)

/-- A column that the operation does not write tracks the image as before. -/
theorem State.Continues.column_unwritten (hc : s.Continues i t) {g : Nat → Nat → Byte} {x : Nat}
    (hx : s.ColumnTracks g x) (hlb : t.lb[x + 2]? = s.lb[x + 2]?) (hother : x = s.col → i ∉ writesLb) :
    t.ColumnTracks g x := by
  refine hx.congr hc.cfg hc.row hc.col hlb (fun hcur => ?_) (fun hcur => ?_)
  · have hi := hother hcur
    rw [hc.shifted, or_iff_left]
    rintro (rfl | rfl) <;> exact hi (by decide)
  · have hi := hother hcur
    rw [hc.mem_performed, or_iff_left]
    rintro rfl
    obtain ⟨hv, -⟩ | ⟨hv, -⟩ | ⟨hv, -⟩ | ⟨hv, -⟩ := s.cfg.ingestAt_cases x <;>
      exact hi (hv ▸ by decide)

/-- The fix-up or shift leaves the current column the aged run of this row. -/
theorem State.Continues.column_shifted (hc : s.Continues i t) (hi : i = .topFixup ∨ i = .rowShift)
    {g : Nat → Nat → Byte} (hlb : t.lb[s.col + 2]? = some (agedRun s.cfg g s.row s.col)) :
    t.ColumnTracks g s.col := by
  have hsh : t.shifted := hc.shifted.2 (.inr hi)
  refine ⟨_, hlb, ?_, ?_, ?_⟩ <;> rw [hc.cfg, hc.row, hc.col]
  · exact fun _ => rfl
  · exact fun _ _ hno => absurd hsh hno
  · rintro (hlt | ⟨-, -, hno⟩)
    · exact absurd hlt (lt_irrefl _)
    · exact absurd hsh hno

include ht hcol hp h hc

/-- An ingest puts the pixel's gray value into the current column: the run is complete (R121, R131). -/
theorem State.Continues.column_ingested (hi : i = .ingestM ∨ i = .ingestL ∨ i = .ingestR ∨ i = .ingestLR) :
    t.ColumnTracks (grayImage s.cfg frame) s.col := by
  have hdue := exec_next_scheduled h
  have hvariant := State.ingestAt_of_scheduled hi hdue
  rw [State.scheduled_scan hp, Config.opsAt_ingest hi] at hdue
  obtain ⟨hrow, -, hupc⟩ := hdue
  have hearly : ¬ s.shifted := by
    rw [State.shifted_iff hp, hupc, Config.shiftFrom, Config.emitFrom, if_pos hrow]
    omega
  have hsh : ¬ t.shifted := by
    rw [hc.shifted]
    rintro (hs | rfl | rfl)
    · exact hearly hs
    · simp at hi
    · simp at hi
  obtain ⟨v, hv, hlb⟩ := exec_ingest_current hi h hcol
  obtain ⟨cells, hcells, -, -, hbefore⟩ := ht.columns s.col hcol
  refine ⟨cells.setNewest v, hlb.trans (congrArg _ hcells), ?_, ?_, ?_⟩ <;> rw [hc.cfg, hc.row, hc.col]
  · rintro (hlt | ⟨-, hs⟩)
    · exact absurd hlt (lt_irrefl _)
    · exact absurd hs hsh
  · refine fun _ _ _ => ⟨ht.latch_g v hv, fun hlater => ?_⟩
    rw [hbefore (.inr ⟨rfl, hvariant ▸ hc.fresh, hearly⟩) hlater, ht.latch_g v hv, setNewest_agedRun hrow]
  · rintro (hlt | ⟨-, hno, -⟩)
    · exact absurd hlt (lt_irrefl _)
    · exact absurd (hc.mem_performed.2 (.inr hvariant.symm)) hno

/-- TOP_FIXUP spreads the pixel of the first row over the current column (R127, R131). -/
theorem State.Continues.column_seeded (hh : 0 < s.cfg.h) (hi : i = .topFixup) :
    t.ColumnTracks (grayImage s.cfg frame) s.col := by
  subst hi
  refine hc.column_shifted (.inl rfl) ?_
  obtain ⟨hdue, -, rfl⟩ := exec_topFixup_next.1 h
  rw [State.scheduled_scan hp, Config.opsAt_topFixup] at hdue
  obtain ⟨hrow, hupc⟩ := hdue
  have hin : s.row < s.cfg.h := hrow ▸ hh
  have hthree : s.upc = 3 := by rw [hupc, Config.emitFrom, if_pos hin]
  have hno : ¬ s.shifted := by
    rw [State.shifted_iff hp, Config.shiftFrom, hupc]
    omega
  obtain ⟨cells, hcells, -, hunder, -⟩ := ht.columns s.col hcol
  obtain ⟨hnewest, -⟩ := hunder rfl ((State.ingested_iff hp).2 ⟨hin, by omega⟩) hno
  rw [hrow] at hnewest ⊢
  refine (LineBuffer.getElem?_update_same ..).trans ((congrArg _ hcells).trans ?_)
  rw [Option.map_some, seed_of_first_row hnewest]
  rfl

/-- ROW_SHIFT ages the complete run of the current column (R128, R131). -/
theorem State.Continues.column_aged (hi : i = .rowShift) :
    t.ColumnTracks (grayImage s.cfg frame) s.col := by
  subst hi
  refine hc.column_shifted (.inr rfl) ?_
  obtain ⟨hdue, -, rfl⟩ := exec_rowShift_next.1 h
  rw [State.scheduled_scan hp, Config.opsAt_rowShift] at hdue
  obtain ⟨hrow, hupc⟩ := hdue
  have hcomplete := ht.column_complete hcol hp hrow ((Nat.le_add_right ..).trans_eq hupc.symm) hupc.le
  refine (LineBuffer.getElem?_update_same ..).trans ((congrArg _ hcomplete).trans ?_)
  rw [Option.map_some, age_verticalRun]

/-- Every frame column tracks the image as far as the operation has brought it (R131). -/
theorem State.Continues.columns (hh : 0 < s.cfg.h) {x : Nat} (hx : x < t.cfg.w) :
    t.ColumnTracks (grayImage t.cfg frame) x := by
  rw [hc.cfg] at hx ⊢
  by_cases hcur : x = s.col ∧ i ∈ writesLb
  · obtain ⟨rfl, hi⟩ := hcur
    have hi : (i = .ingestM ∨ i = .ingestL ∨ i = .ingestR ∨ i = .ingestLR) ∨ i = .topFixup ∨
        i = .rowShift := by
      simpa [writesLb, or_assoc] using hi
    rcases hi with hi | hi | hi
    · exact hc.column_ingested ht hcol hp h hi
    · exact hc.column_seeded ht hcol hp h hh hi
    · exact hc.column_aged ht hcol hp h hi
  · have hother : x = s.col → i ∉ writesLb := not_and.1 hcur
    have hstart := (State.not_frame_end_of_scan hp (exec_next_scheduled h)).1
    exact hc.column_unwritten (ht.columns x hx) (exec_column_same h hstart hx hother) hother

end Columns

end Machine

end Sys2Proof
end

section
/-! PROOFS. Every step of a frame keeps the frame invariant, until FRAME_END reports it (R131, R132, R136,
R202): O51. -/

namespace Sys2Proof.Machine

section Progress

variable {s : State}

/-- Where ADVANCE is due, a position in the rows of the frame has taken its pixel (R39). -/
theorem State.consumed_at_advance (hs : s.scheduled = some .advance) :
    s.consumed = s.nIn + if s.row < s.cfg.h then 1 else 0 := by
  simp only [State.consumed,
    State.mem_performed_at_advance hs (fun _ => Config.opsAt_adaptIn) fun _ => Nat.zero_le _]

/-- Where ADVANCE is due, a position of the rows with an emit stage has inserted, emitted and pushed (R39). -/
theorem State.emit_stage_at_advance (hs : s.scheduled = some .advance) :
    s.inserted = s.nOut + (if 2 < s.row then 1 else 0) ∧ s.emitted = s.nOut + (if 2 < s.row then 1 else 0) ∧
      s.produced = s.nOut + (if 2 < s.row then 1 else 0) := by
  have hstage : 2 < s.row → s.cfg.emitFrom s.row + 5 = s.cfg.shiftFrom s.row := fun h => by
    rw [Config.shiftFrom, if_pos h]
  refine ⟨?_, ?_, ?_⟩
  · simp only [State.inserted,
      State.mem_performed_at_advance hs (fun _ => Config.opsAt_winInsert) fun h => by have := hstage h; omega]
  · simp only [State.emitted,
      State.mem_performed_at_advance hs (fun _ => Config.opsAt_emit) fun h => by have := hstage h; omega]
  · simp only [State.produced,
      State.mem_performed_at_advance hs (fun _ => Config.opsAt_adaptOut) fun h => by have := hstage h; omega]

/-- In FINISH of a frame every pixel has been consumed and every output pushed (R129, R201). -/
theorem State.counts_in_finish (hinv : s.Inv) (hg : s.cfg.geometryOk = true) (hp : s.phase = .finish) :
    s.consumed = s.cfg.npix ∧ s.produced = s.cfg.npix := by
  obtain ⟨-, -, -, hlast, -⟩ := hinv
  obtain ⟨hrow, hcol⟩ := hlast hp
  obtain ⟨-, hh⟩ := Config.geometryOk_eq_true.1 hg
  rw [Config.rows_eq] at hrow
  have hdone : ∀ j, j ∈ s.performed ↔ ∃ k : Nat, (s.cfg.opsAt s.row s.col)[k]? = some j := fun j => by
    rw [← List.mem_iff_getElem?, State.performed, hp]
  constructor
  · have hin : Instr.adaptIn ∉ s.performed := by
      rw [hdone]
      rintro ⟨k, hk⟩
      have hframe := (Config.opsAt_adaptIn.1 hk).1
      omega
    rw [State.consumed, if_neg hin, State.nIn_drain (by omega), Nat.add_zero]
  · have hemit : 2 < s.row := by omega
    have hout : Instr.adaptOut ∈ s.performed := (hdone _).2 ⟨_, Config.opsAt_adaptOut.2 ⟨hemit, rfl⟩⟩
    have hrows : s.cfg.h = s.row - 3 + 1 := by omega
    rw [State.produced, if_pos hout, State.nOut_emit hemit, Nat.add_assoc, hcol, Config.npix, hrows, Nat.mul_comm,
      Nat.mul_succ]

/-- At the next position each column is as far as it was: the columns up to the old one are done with its row, and
of a new row none is (R131). -/
theorem State.ColumnTracks.next_position {t : State} {g : Nat → Nat → Byte} {x : Nat} (h : s.ColumnTracks g x)
    (hs : s.scheduled = some .advance) (hpos : s.PrecedesPosition t) (hnone : t.performed = [])
    (hlb : t.lb = s.lb) (hx : x < s.cfg.w) : t.ColumnTracks g x := by
  obtain ⟨hp, hat⟩ := (State.scheduled_other (by decide) (by decide)).1 hs
  have hsh : s.shifted := (State.shifted_iff hp).2 (by rw [Config.opsAt_advance.1 hat]; exact Nat.lt_succ_self _)
  have hsh' : ¬ t.shifted := by simp [State.shifted, hnone]
  obtain ⟨cells, hcells, hdone, -, hbefore⟩ := h
  have hpast : x ≤ s.col → cells = agedRun s.cfg g s.row x := fun hle =>
    hdone (hle.lt_or_eq.imp_right fun heq => ⟨heq, hsh⟩)
  obtain ⟨hcfg, ⟨hrow, hcol⟩ | ⟨hend, hrow, hcol⟩⟩ := hpos <;>
    refine ⟨cells, hlb ▸ hcells, ?_, by simp [hnone], ?_⟩ <;> rw [hcfg, hrow, hcol]
  · rintro (hlt | ⟨-, hno⟩)
    · exact hpast (Nat.le_of_lt_succ hlt)
    · exact absurd hno hsh'
  · exact fun hlt => hbefore (.inl (by omega))
  · rintro (hlt | ⟨-, hno⟩)
    · exact absurd hlt (Nat.not_lt_zero _)
    · exact absurd hno hsh'
  · intro _ _
    rw [hpast (by omega), Nat.cast_succ, add_sub_cancel_right]

end Progress

section Tracks

variable {i : Instr} {s t : State} {frame : List Rgb} {win0 : Window} {rest : List InItem} {out0 : List Rgb}
  {em0 : List (Nat × Byte)} (ht : s.FrameTracks frame win0 rest out0 em0)

include ht

/-- An operation of a position keeps the frame invariant. -/
theorem State.Continues.frameTracks (hg : s.cfg.geometryOk = true) (hcol : s.col < s.cfg.w)
    (hunb : s.Unbounded) (hp : s.phase = .scan) (h : exec i s = .next t) (hc : s.Continues i t) :
    t.FrameTracks frame win0 rest out0 em0 where
  frame_length := by rw [hc.cfg]; exact ht.frame_length
  running := hc.running
  no_discard := hc.no_discard
  free_running := hc.free_running
  input_left := hc.input_left ht h hcol hp
  columns _ hx := hc.columns ht hcol hp h (Config.geometryOk_eq_true.1 hg).2 hx
  window := hc.window ht h hcol hp
  latch_p _ := hc.latch_p ht h hcol
  latch_g _ := hc.latch_g ht h
  latch_e _ := hc.latch_e ht h hp
  latch_o _ := hc.latch_o ht h
  emissions_so_far := hc.emissions_so_far ht h
  output_so_far := hc.output_so_far ht h hunb.outputFull

/-- ADVANCE to another position keeps the frame invariant: what the position left to do is counted there as done,
and each column is as far as it was (R129, R131). -/
theorem State.FrameTracks.next_position (hs : s.scheduled = some .advance) {t : State} (hpos : s.PrecedesPosition t)
    (hp : t.phase = .scan) (hupc : t.upc = 0) (hlatch : t.LatchesUnset)
    (hkeep : t.lb = s.lb ∧ t.win = s.win ∧ t.input = s.input ∧ t.output = s.output ∧ t.emissions = s.emissions ∧
      t.discarding = s.discarding ∧ t.trace = s.trace.tail) :
    t.FrameTracks frame win0 rest out0 em0 := by
  obtain ⟨hlb, hwin, hinput, houtput, hemissions, hno, htrace⟩ := hkeep
  obtain ⟨hpIn, hgIn, heOut, hpOut⟩ := hlatch
  have hnone : t.performed = [] := State.performed_of_upc_zero hp hupc
  obtain ⟨hins, hemi, hpro⟩ := State.emit_stage_at_advance hs
  have hconsumed : t.consumed = s.consumed := by
    rw [State.consumed_at_advance hs, ← hpos.nIn]
    simp [State.consumed, hnone]
  have hinserted : t.inserted = s.inserted := by
    rw [hins, ← hpos.nOut]
    simp [State.inserted, hnone]
  have hemitted : t.emitted = s.emitted := by
    rw [hemi, ← hpos.nOut]
    simp [State.emitted, hnone]
  have hproduced : t.produced = s.produced := by
    rw [hpro, ← hpos.nOut]
    simp [State.produced, hnone]
  have hcfg : t.cfg = s.cfg := hpos.1
  exact {
    frame_length := by rw [hcfg, ht.frame_length]
    running := by simp [hp]
    no_discard := hno.trans ht.no_discard
    free_running := by simp [htrace, ht.free_running]
    input_left := by rw [hinput, hconsumed, ht.input_left]
    columns := fun x hx => by
      rw [hcfg] at hx ⊢
      exact (ht.columns x hx).next_position hs hpos hnone hlb hx
    window := by rw [hwin, hcfg, hinserted, ht.window]
    latch_p := by simp [hpIn]
    latch_g := by simp [hgIn]
    latch_e := by simp [heOut]
    latch_o := by simp [hpOut]
    emissions_so_far := by rw [hemissions, hcfg, hemitted, ht.emissions_so_far]
    output_so_far := by rw [houtput, hcfg, hproduced, ht.output_so_far] }

/-- An operation in SCAN keeps the frame in progress and its invariant: it runs at its position, or it is an ADVANCE
to the next one. -/
theorem State.FrameTracks.exec_scan (hg : s.cfg.geometryOk = true) (hcol : s.col < s.cfg.w) (hunb : s.Unbounded)
    (hp : s.phase = .scan) (h : exec i s = .next t) :
    t.FrameTracks frame win0 rest out0 em0 ∧ t.status = s.status := by
  by_cases hlast : i = .advance → ¬ s.col + 1 < s.cfg.w ∧ ¬ s.row + 1 < s.cfg.h + 3
  · have hc := ht.continues hcol hunb hp h hlast
    exact ⟨hc.frameTracks ht hg hcol hunb hp h, hc.status⟩
  · obtain ⟨rfl, hmore⟩ := Classical.not_imp.1 hlast
    obtain ⟨hdue, rfl⟩ := exec_advance_next.1 h
    obtain ⟨-, hnext⟩ | ⟨hc, -, hnext⟩ | ⟨hc, hr, -⟩ :=
      State.nextPosition_cases { s.clearLatches with upc := 0, trace := s.trace.tail }
    · rw [hnext]
      exact ⟨ht.next_position hdue ⟨rfl, .inl ⟨rfl, rfl⟩⟩ hp rfl ⟨rfl, rfl, rfl, rfl⟩
        ⟨rfl, rfl, rfl, rfl, rfl, rfl, rfl⟩, rfl⟩
    · have hend : s.col + 1 = s.cfg.w := Nat.le_antisymm hcol (Nat.le_of_not_lt hc)
      rw [hnext]
      exact ⟨ht.next_position hdue ⟨rfl, .inr ⟨hend, rfl, rfl⟩⟩ hp rfl ⟨rfl, rfl, rfl, rfl⟩
        ⟨rfl, rfl, rfl, rfl, rfl, rfl, rfl⟩, rfl⟩
    · exact absurd ⟨hc, hr⟩ hmore

/-- FRAME_END of a frame finds its boundary, and the whole frame has been pushed (R136, R201, R202). -/
theorem State.FrameTracks.exec_finish (hinv : s.Inv) (hg : s.cfg.geometryOk = true) (hunb : s.Unbounded)
    (hp : s.phase = .finish) (h : exec i s = .next t) :
    t.phase = .idle ∧ t.input = rest ∧ t.status = s.status ++ [.ok] ∧
      t.output = out0 ++ (List.range s.cfg.npix).map (frameBeat s.cfg (grayImage s.cfg frame) win0) := by
  obtain ⟨hconsumed, hproduced⟩ := State.counts_in_finish hinv hg hp
  obtain rfl : i = .frameEnd :=
    Option.some.inj ((exec_next_scheduled h).symm.trans (State.scheduled_frameEnd.2 hp))
  have hinput : s.input = .boundary :: rest := by
    rw [ht.input_left, hconsumed, ← ht.frame_length, List.drop_length]
    rfl
  obtain ⟨-, ⟨hwait, -⟩ | ⟨-, hempty, -⟩ | ⟨-, -, hfull, -⟩ | ⟨items, -, hin, -, rfl⟩ | ⟨p, items, -, hin, -⟩⟩ :=
    exec_frameEnd_next.1 h
  · exact nomatch hwait.symm.trans ht.no_discard
  · exact nomatch hempty.symm.trans hinput
  · exact nomatch hfull.symm.trans hunb.statusFull
  · obtain ⟨-, rfl⟩ := List.cons.inj (hinput.symm.trans hin)
    refine ⟨rfl, rfl, rfl, ?_⟩
    rw [State.endFrame_output, State.statusPush_output, ht.output_so_far, hproduced]
  · exact nomatch hin.symm.trans hinput

end Tracks

/-- Settles O51: in SCAN the invariant is kept (`exec_scan`), in FINISH the frame is reported (`exec_finish`). -/
theorem stepKeepsTheFrameInvariant : Obligations.StepKeepsTheFrameInvariant := by
  intro s t frame win0 rest out0 em0 hinv ht hunb h
  obtain ⟨hnone, i, -, hexec⟩ := step_next h
  obtain ⟨-, -, hwf⟩ := State.standing_none.1 hnone
  have hg := Config.geometryOk_of_wf hwf
  cases hp : s.phase with
  | idle => exact absurd hp ht.running
  | scan =>
    obtain ⟨-, hrange, -⟩ := hinv
    obtain ⟨ht', hstatus⟩ := ht.exec_scan hg (hrange hg).2 hunb hp hexec
    exact ⟨fun _ => ⟨ht', hstatus⟩, fun hidle => absurd hidle ht'.running⟩
  | finish =>
    obtain ⟨hidle, hreport⟩ := ht.exec_finish hinv hg hunb hp hexec
    exact ⟨fun hrunning => absurd hidle hrunning, fun _ => hreport⟩

end Sys2Proof.Machine
end

section
/-! PROOFS. The gradient as the double sum of R160, and what follows for every kernel: O17, O30 and O31. -/

namespace Sys2Proof

section Sums

variable {α β γ : Type}

@[simp] theorem Five.get_zipWith (f : α → β → γ) (x : Five α) (y : Five β) (i : Fin 5) :
    (Five.zipWith f x y).get i = f (x.get i) (y.get i) := by
  fin_cases i <;> rfl

@[simp] theorem Five.get_map (f : α → β) (x : Five α) (i : Fin 5) : (x.map f).get i = f (x.get i) := by
  fin_cases i <;> rfl

theorem Five.sum_eq (x : Five Int) : x.sum = ∑ i, x.get i :=
  (Fin.sum_univ_five x.get).symm

theorem Five.natSum_eq (x : Five Nat) : x.natSum = ∑ i, x.get i :=
  (Fin.sum_univ_five x.get).symm

/-- `ΣK[i][j]`, cell by cell (R161, R166). -/
theorem Kernel.entrySum_eq (k : Kernel) : k.entrySum = ∑ i, ∑ j, (k.get i).get j := by
  simp only [Kernel.entrySum, Five.sum_eq, Five.get_map]

/-- `Σ|K[i][j]|`, cell by cell (R10). -/
theorem Kernel.absSum_eq (k : Kernel) : k.absSum = ∑ i, ∑ j, ((k.get i).get j).natAbs := by
  simp only [Kernel.absSum, Five.natSum_eq, Five.get_map]

end Sums

/-- `KernelZeroSum` says that both kernels sum to zero (R161). -/
theorem Config.kernelZeroSum_iff {c : Config} :
    c.kernelZeroSum = true ↔ c.kx.entrySum = 0 ∧ c.ky.entrySum = 0 := by
  simp only [Config.kernelZeroSum, Bool.and_eq_true, decide_eq_true_eq]

namespace Machine

/-- `Gx` and `Gy` as R160 writes them: the window's cells times the kernel's, in place. -/
theorem gradient_eq (k : Kernel) (w : Window) :
    gradient k w = ∑ i, ∑ j, (((w.get i).get j).toNat : Int) * (k.get i).get j := by
  simp only [gradient, rowProduct, Five.sum_eq, Five.get_zipWith]

/-- Settles O17. -/
theorem edgeThresholdsTheGradient : Obligations.EdgeThresholdsTheGradient := by
  refine ⟨rfl, fun c row col index _ => ?_, fun s hdue => ?_⟩
  · rw [Config.opsAt_edge, Config.emitFrom]
    split_ifs <;> rfl
  · simp only [← gradient_eq]
    exact exec_edge_next.2 ⟨hdue, rfl⟩

/-- A flat window takes its value out of the sum (R166). -/
theorem gradient_flat {w : Window} {v : Byte} (h : ∀ r k, (w.get r).get k = v) (k : Kernel) :
    gradient k w = v.toNat * k.entrySum := by
  simp only [gradient_eq, h, Kernel.entrySum_eq, Finset.mul_sum]

/-- The magnitude of a flat window (R166). -/
theorem magnitude_flat {w : Window} {v : Byte} (h : ∀ r k, (w.get r).get k = v) (c : Config) :
    magnitude c w = v.toNat * (c.kx.entrySum.natAbs + c.ky.entrySum.natAbs) := by
  simp only [magnitude, gradient_flat h, Int.natAbs_mul, Int.natAbs_natCast, mul_add]

/-- A flat window is no edge where both kernels sum to zero (R166). -/
theorem edgeOf_flat {w : Window} {v : Byte} (h : ∀ r k, (w.get r).get k = v) {c : Config}
    (hzero : c.kernelZeroSum = true) : edgeOf c w = 0 := by
  obtain ⟨hx, hy⟩ := Config.kernelZeroSum_iff.1 hzero
  have hmag : magnitude c w = 0 := by simp [magnitude_flat h, hx, hy]
  rw [edgeOf, hmag]
  rfl

/-- Settles O30. -/
theorem flatWindowHasNoEdge : Obligations.FlatWindowHasNoEdge :=
  fun c _ _ hflat => ⟨magnitude_flat hflat c, edgeOf_flat hflat⟩

/-- Kernels with congruent entries have congruent gradients, whatever the window. -/
theorem gradient_modEq {n : Int} {k k' : Kernel} (h : ∀ i j, (k.get i).get j ≡ (k'.get i).get j [ZMOD n])
    (w : Window) : gradient k w ≡ gradient k' w [ZMOD n] := by
  rw [gradient_eq, gradient_eq]
  exact .sum fun i _ => .sum fun j _ => (h i j).mul_left _

/-- Settles O31: the two kernels are odd at the same places, so `Gx ≡ Gy` mod 2 (R163). -/
theorem oddCornerKernelsGiveEvenMagnitudes : Obligations.OddCornerKernelsGiveEvenMagnitudes := by
  intro c w hodd
  have hentries (i j : Fin 5) : (c.kx.get i).get j ≡ (c.ky.get i).get j [ZMOD 2] := by
    have hsame := (hodd i j).1.trans (hodd i j).2.symm
    unfold Int.ModEq
    omega
  have hgradients : gradient c.kx w % 2 = gradient c.ky w % 2 := gradient_modEq hentries w
  rw [magnitude]
  omega

end Machine

end Sys2Proof
end

section
/-! PROOFS. The accumulator (R10, R164): what it holds is the gradient modulo `2^ACC_W`, and R10's bound leaves
the gradients and the magnitude no other value to be: O28. -/

namespace Sys2Proof

/-- What R10's bound says of the width and the kernels. -/
theorem Config.accumulatorOk_eq_true {c : Config} : c.accumulatorOk = true ↔
    0 < c.accW ∧ 255 * max c.kx.absSum c.ky.absSum < 2 ^ (c.accW - 1) ∧
      255 * (c.kx.absSum + c.ky.absSum) < 2 ^ (c.accW - 1) := by
  simp only [Config.accumulatorOk, Bool.and_eq_true, decide_eq_true_eq, Nat.succ_le_iff, and_assoc]

namespace Machine

section Bits

variable {n : Nat}

theorem productBits_eq (v : Byte) (m : Int) : productBits n v m = BitVec.ofInt n (v.toNat * m) := by
  rw [productBits, BitVec.ofInt_mul, BitVec.ofInt_natCast]

/-- A row adds its product to what was accumulated before. -/
theorem accumulateRow_eq (a : Int) (x : Cells) (k : Five Int) :
    accumulateRow n (BitVec.ofInt n a) x k = BitVec.ofInt n (a + rowProduct x k) := by
  simp only [accumulateRow, productBits_eq, ← BitVec.ofInt_add, rowProduct, Five.zipWith, Five.sum, add_assoc]

/-- The accumulator holds the gradient modulo `2^n`. -/
theorem gradientBits_eq (k : Kernel) (w : Window) : gradientBits n k w = BitVec.ofInt n (gradient k w) := by
  have hstart : (0 : BitVec n) = BitVec.ofInt n 0 := (BitVec.ofInt_ofNat n 0).symm
  simp only [gradientBits, hstart, accumulateRow_eq, zero_add, gradient, Five.zipWith, Five.sum]

/-- A number within the signed range is what its `n` bits read as. -/
theorem toInt_ofInt_of_natAbs_lt {z : Int} (hn : 0 < n) (hz : z.natAbs < 2 ^ (n - 1)) :
    (BitVec.ofInt n z).toInt = z := by
  have hcast : (z.natAbs : Int) < 2 ^ (n - 1) := by exact_mod_cast hz
  exact BitVec.toInt_ofInt_eq_self hn (by omega) (by omega)

/-- Within the signed range the absolute value of the bits is the number's. -/
theorem abs_ofInt_of_natAbs_lt {z : Int} (hn : 0 < n) (hz : z.natAbs < 2 ^ (n - 1)) :
    (BitVec.ofInt n z).abs = BitVec.ofInt n z.natAbs := by
  rw [BitVec.abs_eq, BitVec.msb_eq_toInt, toInt_ofInt_of_natAbs_lt hn hz, ← BitVec.ofInt_neg]
  by_cases hneg : z < 0
  · simp [hneg, Int.ofNat_natAbs_of_nonpos hneg.le]
  · simp [hneg, Int.natAbs_of_nonneg (not_lt.1 hneg)]

end Bits

/-- No window's gradient exceeds that of a window of 255 under a kernel of absolute values (R10). -/
theorem natAbs_gradient_le (k : Kernel) (w : Window) : (gradient k w).natAbs ≤ 255 * k.absSum := by
  have hterm (i j : Fin 5) :
      ((((w.get i).get j).toNat : Int) * (k.get i).get j).natAbs ≤ 255 * ((k.get i).get j).natAbs := by
    rw [Int.natAbs_mul, Int.natAbs_natCast]
    exact Nat.mul_le_mul_right _ (Nat.le_of_lt_succ (BitVec.isLt _))
  rw [gradient_eq, Kernel.absSum_eq, Finset.mul_sum]
  refine (Int.natAbs_sum_le ..).trans (Finset.sum_le_sum fun i _ => ?_)
  rw [Finset.mul_sum]
  exact (Int.natAbs_sum_le ..).trans (Finset.sum_le_sum fun j _ => hterm i j)

/-- Settles O28: both gradients and the magnitude lie within the signed range (`natAbs_gradient_le`). -/
theorem accumulatorNeverOverflows : Obligations.AccumulatorNeverOverflows := by
  intro c w hok
  obtain ⟨hpos, -, hsum⟩ := Config.accumulatorOk_eq_true.1 hok
  have hxle := natAbs_gradient_le c.kx w
  have hyle := natAbs_gradient_le c.ky w
  have hx : (gradient c.kx w).natAbs < 2 ^ (c.accW - 1) := by omega
  have hy : (gradient c.ky w).natAbs < 2 ^ (c.accW - 1) := by omega
  have hmag : magnitude c w < 2 ^ (c.accW - 1) := by unfold magnitude; omega
  refine ⟨?_, ?_, ?_⟩
  · rw [gradientBits_eq, toInt_ofInt_of_natAbs_lt hpos hx]
  · rw [gradientBits_eq, toInt_ofInt_of_natAbs_lt hpos hy]
  · rw [magnitudeBits, gradientBits_eq, gradientBits_eq, abs_ofInt_of_natAbs_lt hpos hx,
      abs_ofInt_of_natAbs_lt hpos hy, ← BitVec.ofInt_add]
    exact toInt_ofInt_of_natAbs_lt hpos hmag

end Machine

end Sys2Proof
end

section
/-! PROOFS. A flat frame (E4): from the fifth output on the window holds its one gray value alone: O56. -/

namespace Sys2Proof.Machine

section FlatImage

variable {c : Config}

/-- A clamped row is a row of the frame (R18). -/
theorem cv_lt (hh : 1 ≤ c.h) (y : Int) : cv c y < c.h := by
  unfold cv
  omega

/-- The image of a flat frame is flat (R18). -/
theorem grayImage_flat {y x : Nat} (hy : y < c.h) (hx : x < c.w) (p : Rgb) :
    grayImage c (List.replicate c.npix p) y x = grayOf p := by
  have hin : y * c.w + x < c.npix := by
    calc y * c.w + x < (y + 1) * c.w := by rw [Nat.succ_mul]; omega
      _ ≤ c.h * c.w := Nat.mul_le_mul_right _ hy
      _ = c.npix := Nat.mul_comm ..
  rw [grayImage, List.getD_replicate _ hin]

/-- Five insertions of a flat image fill the window with its value (R132). -/
theorem windowCellAfter_flat {g : Nat → Nat → Byte} {v : Byte} (hg : ∀ y x, y < c.h → x < c.w → g y x = v)
    (hw : 1 ≤ c.w) (hh : 1 ≤ c.h) {m : Nat} (hm : 5 ≤ m) (win0 : Window) (r k : Fin 5) :
    windowCellAfter c g win0 m r k = v := by
  rw [windowCellAfter, if_pos (by omega)]
  exact hg _ _ (cv_lt hh _) (Nat.mod_lt _ hw)

end FlatImage

/-- Settles O56: the window is flat (`windowCellAfter_flat`), and a flat window is no edge (`edgeOf_flat`). -/
theorem flatFrameIsBlackFromTheFifthOutput : Obligations.FlatFrameIsBlackFromTheFifthOutput := by
  intro c frame p win0 n hw hh hframe hzero hn _
  subst hframe
  have hflat (r k : Fin 5) :
      ((windowAfter c (grayImage c (List.replicate c.npix p)) win0 (n + 1)).get r).get k = grayOf p := by
    rw [get_windowAfter]
    exact windowCellAfter_flat (fun _ _ hy hx => grayImage_flat hy hx p) hw hh (by omega) win0 r k
  rw [frameBeat, edgeOf_flat hflat hzero]
  rfl

end Sys2Proof.Machine
end

section
/-! PROOFS. The expander and the stream adapters (R180–R182): O22, O23 and O24. -/

namespace Sys2Proof

/-- EXPAND stands three after WIN_INSERT (R90, R180). -/
theorem Config.opsAt_expand {c : Config} {row col k : Nat} :
    (c.opsAt row col)[k]? = some .expand ↔ 2 < row ∧ k = c.emitFrom row + 3 := by
  rw [Config.opsAt_getElem?]
  simp [c.ingestAt_ne col (i := .expand) (by decide)]

namespace Machine

/-- A queue is full when it has a capacity and holds that many items (R32, R253). -/
theorem fullAt_eq_true {cap : Option Nat} {n : Nat} : fullAt cap n = true ↔ ∃ k, cap = some k ∧ k ≤ n := by
  cases cap <;> simp [fullAt]

/-- A queue has room when any capacity it has is above what it holds (R32, R253). -/
theorem fullAt_eq_false {cap : Option Nat} {n : Nat} : fullAt cap n = false ↔ ∀ k, cap = some k → n < k := by
  cases cap <;> simp [fullAt]

/-- Where ADAPT_IN is due, the pixels consumed are the positions before this one (R39, R181). -/
theorem State.nIn_of_adaptIn {s : State} (hdue : s.scheduled = some .adaptIn) :
    s.nIn = s.row * s.cfg.w + s.col :=
  State.nIn_frame (Config.row_of_adaptIn ((State.scheduled_other (by decide) (by decide)).1 hdue).2)

/-- ADAPT_OUT with room and `p_out` unset stops the model (R182, R231). -/
theorem exec_adaptOut_unset {s : State} (hdue : s.scheduled = some .adaptOut) (hroom : s.outputFull = false)
    (hlatch : s.pOut = none) : exec .adaptOut s = .fault (.latchUnset .adaptOut s.row s.col) := by
  rw [exec, execAdaptOut, issue_scheduled hdue, hroom, if_neg Bool.false_ne_true, readLatch_unset hlatch]

/-- Settles O22. -/
theorem expandReplicatesTheEdgeValue : Obligations.ExpandReplicatesTheEdgeValue := by
  refine ⟨rfl, fun c row col index _ => ?_, fun s e hdue hlatch => exec_expand_next.2 ⟨hdue, e, hlatch, rfl⟩,
    fun s hdue hlatch => (issue_scheduled hdue).trans (readLatch_unset hlatch)⟩
  rw [Config.opsAt_expand, Config.emitFrom]
  split_ifs <;> rfl

/-- Settles O23, by the cases of the front item; BOUNDARY is logged with the count of `State.nIn_of_adaptIn`. -/
theorem adaptInTakesTheNextPixel : Obligations.AdaptInTakesTheNextPixel := by
  refine ⟨rfl, fun c row col index _ => Config.opsAt_adaptIn, fun s hdue hempty => ?_,
    fun s p rest hdue hbeat => ?_, fun s rest hdue hroom hboundary => ?_⟩
  · exact exec_adaptIn_next.2 ⟨hdue, .inl ⟨hempty, rfl⟩⟩
  · exact exec_adaptIn_next.2 ⟨hdue, .inr (.inl ⟨p, rest, hbeat, rfl⟩)⟩
  · rw [← State.nIn_of_adaptIn hdue]
    exact exec_adaptIn_next.2 ⟨hdue, .inr (.inr (.inr ⟨rest, hboundary, hroom, rfl⟩))⟩

/-- Settles O24: the queue is full, or has room and the latch is set, or has room and it is not. -/
theorem adaptOutPushesTheOutputBeat : Obligations.AdaptOutPushesTheOutputBeat := by
  refine ⟨rfl, fun c row col index _ => ?_, fun s cap hdue hcap hfull => ?_, fun s p hdue hroom hlatch => ?_,
    fun s hdue hroom => exec_adaptOut_unset hdue (fullAt_eq_false.2 hroom)⟩
  · rw [Config.opsAt_adaptOut, Config.emitFrom]
    split_ifs <;> rfl
  · exact exec_adaptOut_next.2 ⟨hdue, .inl ⟨fullAt_eq_true.2 ⟨cap, hcap, hfull⟩, rfl⟩⟩
  · exact exec_adaptOut_next.2 ⟨hdue, .inr ⟨fullAt_eq_false.2 hroom, p, hlatch, rfl⟩⟩

end Machine

end Sys2Proof
end

section
/-! PROOFS. Frame sequencing: FRAME_START (R200): O25; FRAME_END (R201): O26; the transitions of the phase (R203):
O34. -/

namespace Sys2Proof.Machine

/-- Settles O25: the arrays and the count are those of the draw that `exec_frameStart_next` names. -/
theorem frameStartBeginsAFrame : Obligations.FrameStartBeginsAFrame :=
  ⟨rfl, fun _ => State.scheduled_frameStart, fun s hidle => ⟨s.cfg.drawLineBuffer s.draws,
    s.cfg.drawWindow s.draws, s.draws + 1, exec_frameStart_next.2 ⟨State.scheduled_frameStart.2 hidle, rfl⟩,
    Config.length_drawLineBuffer ..⟩⟩

/-- Settles O26, by the cases of the front item; a boundary leaves `discarding` clear, as it found it. -/
theorem frameEndReportsTheFrame : Obligations.FrameEndReportsTheFrame := by
  refine ⟨rfl, fun _ => State.scheduled_frameEnd, fun s hp hempty hno => ?_,
    fun s rest hp hno hroom hboundary => ?_, fun s p rest hp hno hroom hpixel => ?_⟩
  all_goals have hdue := State.scheduled_frameEnd.2 hp
  · exact exec_frameEnd_next.2 ⟨hdue, .inr (.inl ⟨hno, hempty, rfl⟩)⟩
  · have hend := exec_frameEnd_next.2 ⟨hdue, .inr (.inr (.inr (.inl ⟨rest, hno, hboundary, hroom, rfl⟩)))⟩
    rw [hend, State.endFrame, ← hno]
    rfl
  · exact exec_frameEnd_next.2 ⟨hdue, .inr (.inr (.inr (.inr ⟨p, rest, hno, hpixel, hroom, rfl⟩)))⟩

section Phases

variable {i : Instr} {s t : State}

/-- ADVANCE goes to FINISH from the last position and stays in SCAN from any other (R129, R203). -/
theorem exec_advance_phase (hrow : s.row < s.cfg.h + 3) (hcol : s.col < s.cfg.w) (h : exec .advance s = .next t) :
    t.phase = .finish ∧ s.row = s.cfg.h + 2 ∧ s.col + 1 = s.cfg.w ∨
      t.phase = .scan ∧ ¬ (s.row = s.cfg.h + 2 ∧ s.col + 1 = s.cfg.w) := by
  obtain ⟨hdue, rfl⟩ := exec_advance_next.1 h
  have hp : s.phase = .scan := ((State.scheduled_other (by decide) (by decide)).1 hdue).1
  obtain ⟨hc, hnext⟩ | ⟨-, hr, hnext⟩ | ⟨hc, hr, hnext⟩ :=
    State.nextPosition_cases { s.clearLatches with upc := 0, trace := s.trace.tail } <;> rw [hnext]
  · exact .inr ⟨hp, fun ⟨_, hlast⟩ => hc.ne hlast⟩
  · exact .inr ⟨hp, fun ⟨hlast, _⟩ => hr.ne (congrArg (· + 1) hlast)⟩
  · exact .inl ⟨rfl, Nat.succ.inj (Nat.le_antisymm hrow (Nat.le_of_not_lt hr)),
      Nat.le_antisymm hcol (Nat.le_of_not_lt hc)⟩

/-- ADAPT_IN stays in SCAN, or a boundary ends the frame in IDLE with FRAME_SHORT (R203, R222). -/
theorem exec_adaptIn_phase (h : exec .adaptIn s = .next t) : t.phase = .scan ∨
    t.phase = .idle ∧ s.input.head? = some .boundary ∧ t.status = s.status ++ [.frameShort] := by
  obtain ⟨hdue, hcases⟩ := exec_adaptIn_next.1 h
  have hp : s.phase = .scan := ((State.scheduled_other (by decide) (by decide)).1 hdue).1
  obtain ⟨-, rfl⟩ | ⟨p, rest, -, rfl⟩ | ⟨rest, -, -, rfl⟩ | ⟨rest, hin, -, rfl⟩ := hcases
  · exact .inl hp
  · exact .inl hp
  · exact .inl hp
  · exact .inr ⟨rfl, by rw [hin]; rfl, rfl⟩

/-- A discard ends in IDLE with the boundary it found, or waits in the phase it is in (R224, R253). -/
theorem State.discardFrame_phase (s : State) (count : Nat) :
    (s.discardFrame count).phase = s.phase ∨ (s.discardFrame count).phase = .idle ∧ .boundary ∈ s.input := by
  obtain ⟨rest, hrest, ht⟩ | ⟨-, ht⟩ := s.discardFrame_cases count <;> rw [ht]
  · obtain ⟨dropped, hin⟩ := afterBoundary_some hrest
    exact .inr ⟨rfl, by simp [hin]⟩
  · exact .inl rfl

/-- FRAME_END stays in FINISH, or a boundary of the queue ends the frame in IDLE (R201, R203, R223). -/
theorem exec_frameEnd_phase (h : exec .frameEnd s = .next t) :
    t.phase = .finish ∨ t.phase = .idle ∧ .boundary ∈ s.input := by
  obtain ⟨hdue, hcases⟩ := exec_frameEnd_next.1 h
  have hp : s.phase = .finish := State.scheduled_frameEnd.1 hdue
  rw [← hp]
  obtain ⟨-, rfl⟩ | ⟨-, -, rfl⟩ | ⟨-, -, -, rfl⟩ | ⟨rest, -, hin, -, rfl⟩ | ⟨p, rest, -, hin, -, rfl⟩ := hcases
  · exact s.discardFrame_phase _
  · exact .inl rfl
  · exact .inl rfl
  · exact .inr ⟨rfl, hin ▸ List.mem_cons_self⟩
  · rw [hin]
    exact (State.discardFrame_phase _ _).imp_right (.imp_right (List.mem_cons_of_mem _))

/-- From SCAN, ADVANCE of the last position leads to FINISH, a frame cut short leads to IDLE, and every other operation
stays (R203). -/
theorem exec_scan_phase (hrow : s.row < s.cfg.h + 3) (hcol : s.col < s.cfg.w) (hp : s.phase = .scan)
    (h : exec i s = .next t) :
    t.phase = .scan ∧ ¬ (i = .advance ∧ s.row = s.cfg.h + 2 ∧ s.col + 1 = s.cfg.w) ∨
    t.phase = .finish ∧ i = .advance ∧ s.row = s.cfg.h + 2 ∧ s.col + 1 = s.cfg.w ∨
    t.phase = .idle ∧ i = .adaptIn ∧ s.input.head? = some .boundary ∧ t.status = s.status ++ [.frameShort] := by
  obtain ⟨-, -, -, -, -, hwriter, -⟩ := onlyTheNamedOperationsWriteEachField i s t h
  obtain ⟨hstart, hend⟩ := State.not_frame_end_of_scan hp (exec_next_scheduled h)
  by_cases hadvance : i = .advance
  · subst hadvance
    obtain ⟨hfinish, hlast⟩ | ⟨hscan, hmore⟩ := exec_advance_phase hrow hcol h
    · exact .inr (.inl ⟨hfinish, rfl, hlast⟩)
    · exact .inl ⟨hscan, fun ⟨_, hlast⟩ => hmore hlast⟩
  by_cases hadapt : i = .adaptIn
  · subst hadapt
    obtain hscan | ⟨hidle, hshort⟩ := exec_adaptIn_phase h
    · exact .inl ⟨hscan, fun ⟨hi, _⟩ => hadvance hi⟩
    · exact .inr (.inr ⟨hidle, rfl, hshort⟩)
  · have hsame : t.phase = s.phase := by
      by_contra hmoved
      simpa [hstart, hend, hadvance, hadapt] using hwriter hmoved
    exact .inl ⟨hsame.trans hp, fun ⟨hi, _⟩ => hadvance hi⟩

end Phases

/-- Settles O34, phase by phase: IDLE and FINISH have one operation due each, and SCAN is `exec_scan_phase`'s. -/
theorem phaseTransitionsAreTheListedOnes : Obligations.PhaseTransitionsAreTheListedOnes := by
  rintro i s t ⟨-, hrange, -⟩ hg h
  obtain ⟨hrow, hcol⟩ := hrange hg
  have hdue := exec_next_scheduled h
  cases hp : s.phase with
  | idle =>
    obtain rfl := Option.some.inj (hdue.symm.trans (State.scheduled_frameStart.2 hp))
    obtain ⟨-, rfl⟩ := exec_frameStart_next.1 h
    simp
  | scan =>
    obtain ⟨hp', hstays⟩ | ⟨hp', hlast⟩ | ⟨hp', hshort⟩ := exec_scan_phase hrow hcol hp h
    · simpa [hp'] using hstays
    · simp [hp', hlast]
    · simp [hp', hshort]
  | finish =>
    obtain rfl := Option.some.inj (hdue.symm.trans (State.scheduled_frameEnd.2 hp))
    obtain hp' | ⟨hp', hboundary⟩ := exec_frameEnd_phase h
    · simp [hp']
    · simp [hp', hboundary]

end Sys2Proof.Machine
end

section
/-! PROOFS. A core in order has a next state: whatever operation is due, the columns it forms exist and the latch it
reads is set (R55, R220, R231). -/

namespace Sys2Proof.Machine

/-- Raising a FrameError has a next state, the hold in its place too (R224, R253). -/
theorem raiseFrameError_progress (s : State) (rest : List InItem) (cause : FrameCause) (count : Nat) :
    ∃ t, raiseFrameError s rest cause count = .next t := by
  unfold raiseFrameError
  split <;> exact ⟨_, rfl⟩

section Progress

variable {i : Instr} {s : State} (hinv : s.Inv)

include hinv

/-- The line-buffer columns that a due operation forms exist (R24, R55). -/
theorem State.Inv.reached_exist (hg : s.cfg.geometryOk = true) (hs : s.scheduled = some i) :
    ∀ c ∈ s.reached i, c < s.lb.length := by
  obtain ⟨hlb, hrange, -⟩ := hinv
  obtain ⟨-, hcol⟩ := hrange hg
  intro c hc
  by_contra hout
  exact columnsOutsideTheLineBufferAreRefused.1 i s hlb hcol
    (exec_indexRange.2 ⟨hs, c, hc, Nat.le_of_not_lt hout⟩)

/-- Where GRAY is due, ADAPT_IN has set `p_in` (R29, R90). -/
theorem State.Inv.pIn_set (hs : s.scheduled = some .gray) : ∃ p, s.pIn = some p := by
  obtain ⟨-, -, -, -, -, -, hpIn, -⟩ := hinv
  obtain ⟨hp, hat⟩ := (State.scheduled_other (by decide) (by decide)).1 hs
  obtain ⟨hrow, hupc⟩ := Config.opsAt_gray.1 hat
  exact Option.isSome_iff_exists.1
    (hpIn.2 ⟨hp, State.performed_before hp (Config.opsAt_adaptIn.2 ⟨hrow, rfl⟩) (by omega)⟩)

/-- Where an ingest is due, GRAY has set `g_in` (R29, R90). -/
theorem State.Inv.gIn_set (hi : i = .ingestM ∨ i = .ingestL ∨ i = .ingestR ∨ i = .ingestLR)
    (hs : s.scheduled = some i) : ∃ g, s.gIn = some g := by
  obtain ⟨-, -, -, -, -, -, -, hgIn, -⟩ := hinv
  obtain ⟨hp, hat⟩ := (State.scheduled_other (by rintro rfl; simp at hi) (by rintro rfl; simp at hi)).1 hs
  obtain ⟨hrow, -, hupc⟩ := (Config.opsAt_ingest hi).1 hat
  exact Option.isSome_iff_exists.1
    (hgIn.2 ⟨hp, State.performed_before hp (Config.opsAt_gray.2 ⟨hrow, rfl⟩) (by omega)⟩)

/-- After its place in the emit stage, EDGE has set `e_out` (R29, R90). -/
theorem State.Inv.eOut_set (hp : s.phase = .scan) (hrow : 2 < s.row)
    (hupc : s.cfg.emitFrom s.row + 1 < s.upc) : ∃ e, s.eOut = some e := by
  obtain ⟨-, -, -, -, -, -, -, -, heOut, -⟩ := hinv
  exact Option.isSome_iff_exists.1
    (heOut.2 ⟨hp, State.performed_before hp (Config.opsAt_edge.2 ⟨hrow, rfl⟩) hupc⟩)

/-- Where ADAPT_OUT is due, EXPAND has set `p_out` (R29, R90). -/
theorem State.Inv.pOut_set (hs : s.scheduled = some .adaptOut) : ∃ p, s.pOut = some p := by
  obtain ⟨-, -, -, -, -, -, -, -, -, hpOut⟩ := hinv
  obtain ⟨hp, hat⟩ := (State.scheduled_other (by decide) (by decide)).1 hs
  obtain ⟨hrow, hupc⟩ := Config.opsAt_adaptOut.1 hat
  exact Option.isSome_iff_exists.1
    (hpOut.2 ⟨hp, State.performed_before hp (Config.opsAt_expand.2 ⟨hrow, rfl⟩) (by omega)⟩)

/-- An ingest that is due has a next state (R121–R124). -/
theorem State.Inv.ingest_progress (hg : s.cfg.geometryOk = true)
    (hi : i = .ingestM ∨ i = .ingestL ∨ i = .ingestR ∨ i = .ingestLR) (hs : s.scheduled = some i) :
    ∃ t, ingest i (s.reached i) s = .next t := by
  obtain ⟨g, hlatch⟩ := hinv.gIn_set hi hs
  exact ⟨_, ingest_next.2 ⟨hs, hinv.reached_exist hg hs, g, hlatch, rfl⟩⟩

/-- THE OPERATION THAT IS DUE HAS A NEXT STATE, from every state of the structural invariant (R220, R231). -/
theorem State.Inv.exec_progress (hg : s.cfg.geometryOk = true) (hs : s.scheduled = some i) :
    ∃ t, exec i s = .next t := by
  cases i with
  | frameStart => exact ⟨_, exec_frameStart_next.2 ⟨hs, rfl⟩⟩
  | adaptIn =>
    rw [exec, execAdaptIn, issue_scheduled hs]
    split
    · exact ⟨_, rfl⟩
    · exact ⟨_, rfl⟩
    · exact raiseFrameError_progress ..
  | gray =>
    obtain ⟨p, hlatch⟩ := hinv.pIn_set hs
    exact ⟨_, exec_gray_next.2 ⟨hs, p, hlatch, rfl⟩⟩
  | ingestM | ingestL | ingestR | ingestLR => exact hinv.ingest_progress hg (by decide) hs
  | winInsert =>
    have hcolumn := hinv.reached_exist hg hs _ (List.mem_singleton_self _)
    exact ⟨_, exec_winInsert_next.2 ⟨hs, _, List.getElem?_eq_getElem hcolumn, rfl⟩⟩
  | edge => exact ⟨_, exec_edge_next.2 ⟨hs, rfl⟩⟩
  | emit =>
    obtain ⟨hp, hat⟩ := (State.scheduled_other (by decide) (by decide)).1 hs
    obtain ⟨hrow, hupc⟩ := Config.opsAt_emit.1 hat
    obtain ⟨e, hlatch⟩ := hinv.eOut_set hp hrow (by omega)
    exact ⟨_, exec_emit_next.2 ⟨hs, e, hlatch, rfl⟩⟩
  | expand =>
    obtain ⟨hp, hat⟩ := (State.scheduled_other (by decide) (by decide)).1 hs
    obtain ⟨hrow, hupc⟩ := Config.opsAt_expand.1 hat
    obtain ⟨e, hlatch⟩ := hinv.eOut_set hp hrow (by omega)
    exact ⟨_, exec_expand_next.2 ⟨hs, e, hlatch, rfl⟩⟩
  | adaptOut =>
    obtain ⟨p, hlatch⟩ := hinv.pOut_set hs
    cases hfull : s.outputFull with
    | true => exact ⟨_, exec_adaptOut_next.2 ⟨hs, .inl ⟨hfull, rfl⟩⟩⟩
    | false => exact ⟨_, exec_adaptOut_next.2 ⟨hs, .inr ⟨hfull, p, hlatch, rfl⟩⟩⟩
  | topFixup => exact ⟨_, exec_topFixup_next.2 ⟨hs, hinv.reached_exist hg hs, rfl⟩⟩
  | rowShift => exact ⟨_, exec_rowShift_next.2 ⟨hs, hinv.reached_exist hg hs, rfl⟩⟩
  | advance => exact ⟨_, exec_advance_next.2 ⟨hs, rfl⟩⟩
  | frameEnd =>
    rw [exec, execFrameEnd, issue_scheduled hs]
    split
    · exact ⟨_, rfl⟩
    · exact ⟨_, rfl⟩
    · split <;> exact ⟨_, rfl⟩
    · exact raiseFrameError_progress ..

/-- Some operation is due in every state of the structural invariant (R36, R200, R201). -/
theorem State.Inv.scheduled_some : ∃ i, s.scheduled = some i := by
  obtain ⟨-, -, hmore, -⟩ := hinv
  cases hp : s.phase with
  | idle => exact ⟨_, State.scheduled_frameStart.2 hp⟩
  | scan => exact ⟨_, (State.scheduled_scan hp).trans (List.getElem?_eq_getElem (hmore hp))⟩
  | finish => exact ⟨_, State.scheduled_frameEnd.2 hp⟩

/-- A ready core that its own sequencer drives runs the operation that is due (R90, R92). -/
theorem State.Inv.step_progress (hready : s.Ready) (htrace : s.trace = []) :
    ∃ i t, s.scheduled = some i ∧ exec i s = .next t ∧ step s = .next t := by
  obtain ⟨-, -, hwf⟩ := id hready
  obtain ⟨i, hdue⟩ := hinv.scheduled_some
  obtain ⟨t, h⟩ := hinv.exec_progress (Config.geometryOk_of_wf hwf) hdue
  exact ⟨i, t, hdue, h, (step_of_scheduled hready htrace hdue).trans h⟩

end Progress

end Sys2Proof.Machine
end

section
/-! PROOFS. The rest of a frame's program, from any point of the frame: each step runs its first operation (R61, R92). -/

namespace Sys2Proof

section Program

variable (c : Config)

/-- What the frame program has for a row from a column on (R92, R95). -/
def Config.rowFrom (row col : Nat) : List Instr :=
  (List.range' col (c.w - col)).flatMap (c.opsAt row)

/-- What the frame program has from a row on, FRAME_END included (R92). -/
def Config.programFrom (row : Nat) : List Instr :=
  (List.range' row (c.rows - row)).flatMap c.scanRow ++ [.frameEnd]

variable {c} {row col : Nat}

/-- A column of the frame comes first of the row from it on. -/
theorem Config.rowFrom_of_lt (h : col < c.w) : c.rowFrom row col = c.opsAt row col ++ c.rowFrom row (col + 1) := by
  have hlen : c.w - col = c.w - (col + 1) + 1 := by omega
  rw [Config.rowFrom, hlen, List.range'_succ, List.flatMap_cons]
  rfl

/-- Past the last column the row has nothing left. -/
theorem Config.rowFrom_end (row : Nat) : c.rowFrom row c.w = [] := by
  rw [Config.rowFrom, Nat.sub_self]
  rfl

/-- From its first column on a row is whole (R95). -/
theorem Config.scanRow_eq (row : Nat) : c.scanRow row = c.rowFrom row 0 := by
  rw [Config.scanRow, Config.rowFrom, List.range_eq_range', Nat.sub_zero]

/-- A scan row comes first of the program from it on. -/
theorem Config.programFrom_of_lt (h : row < c.rows) :
    c.programFrom row = c.rowFrom row 0 ++ c.programFrom (row + 1) := by
  have hlen : c.rows - row = c.rows - (row + 1) + 1 := by omega
  rw [Config.programFrom, hlen, List.range'_succ, List.flatMap_cons, Config.scanRow_eq, List.append_assoc]
  rfl

/-- Past the last row only FRAME_END is left (R201). -/
theorem Config.programFrom_end : c.programFrom c.rows = [.frameEnd] := by
  rw [Config.programFrom, Nat.sub_self]
  rfl

/-- The frame program is FRAME_START and the program from the first row on (R92). -/
theorem Config.frameProgram_eq : c.frameProgram = .frameStart :: c.programFrom 0 := by
  rw [Config.frameProgram, Config.programFrom, List.range_eq_range', Nat.sub_zero]
  rfl

end Program

namespace Machine

/-- What is left of the frame program: the rest of the position, of its row and of the frame (R36, R92). -/
def State.remaining (s : State) : List Instr :=
  if s.phase = .idle then [] else
    (s.cfg.opsAt s.row s.col).drop s.performed.length ++
      (s.cfg.rowFrom s.row (s.col + 1) ++ s.cfg.programFrom (s.row + 1))

section Remaining

variable {i : Instr} {s t : State}

/-- In IDLE no frame is in progress (R23). -/
theorem State.remaining_idle (hp : s.phase = .idle) : s.remaining = [] :=
  if_pos hp

/-- While a frame is in progress. -/
theorem State.remaining_running (hp : s.phase ≠ .idle) : s.remaining =
    (s.cfg.opsAt s.row s.col).drop s.performed.length ++
      (s.cfg.rowFrom s.row (s.col + 1) ++ s.cfg.programFrom (s.row + 1)) :=
  if_neg hp

/-- At the start of a position the rest of the frame is the row from it on and the later rows (R36, R92). -/
theorem State.remaining_at_start (hp : s.phase = .scan) (hupc : s.upc = 0) (hcol : s.col < s.cfg.w) :
    s.remaining = s.cfg.rowFrom s.row s.col ++ s.cfg.programFrom (s.row + 1) := by
  rw [State.remaining_running (by simp [hp]), State.performed_of_upc_zero hp hupc, Config.rowFrom_of_lt hcol,
    List.append_assoc]
  rfl

/-- What has run at a position, and then what is due, begin its sequence (R36). -/
theorem State.performed_then_due (hp : s.phase = .scan) (hs : s.scheduled = some i) :
    ∃ later, s.performed ++ [i] ++ later = s.cfg.opsAt s.row s.col := by
  rw [State.scheduled_scan hp] at hs
  have htake : (s.cfg.opsAt s.row s.col).take (s.upc + 1) = s.performed ++ [i] := by
    rw [List.take_add_one, hs, State.performed, hp]
    rfl
  exact ⟨_, htake ▸ List.take_append_drop ..⟩

/-- An operation run at its position was the first of what remained (R36). -/
theorem State.Continues.remaining (hc : s.Continues i t) (hp : s.phase = .scan) (hs : s.scheduled = some i) :
    s.remaining = i :: t.remaining := by
  obtain ⟨later, hlater⟩ := State.performed_then_due hp hs
  rw [State.remaining_running (by simp [hp]), State.remaining_running hc.running, hc.cfg, hc.row, hc.col,
    hc.performed, ← hlater, List.drop_left, List.append_assoc, List.drop_left]
  rfl

/-- Where ADVANCE is due, it and the later positions remain (R129). -/
theorem State.remaining_at_advance (hs : s.scheduled = some .advance) : s.remaining =
    .advance :: (s.cfg.rowFrom s.row (s.col + 1) ++ s.cfg.programFrom (s.row + 1)) := by
  obtain ⟨hp, -⟩ := (State.scheduled_other (by decide) (by decide)).1 hs
  rw [State.remaining_running (by simp [hp]), ← State.performed_at_advance hs, List.drop_left]
  rfl

/-- ADVANCE to another position was the first of what remained (R92, R129). -/
theorem State.PrecedesPosition.remaining (hpos : s.PrecedesPosition t) (hs : s.scheduled = some .advance)
    (hp : t.phase = .scan) (hupc : t.upc = 0) (hrow : t.row < t.cfg.rows) (hcol : t.col < t.cfg.w) :
    s.remaining = .advance :: t.remaining := by
  rw [State.remaining_at_advance hs, State.remaining_at_start hp hupc hcol]
  obtain ⟨hcfg, ⟨hr, hc⟩ | ⟨hend, hr, hc⟩⟩ := hpos
  · rw [hcfg, hr, hc]
  · rw [hcfg, hr] at hrow
    rw [hcfg, hr, hc, hend, Config.rowFrom_end, Config.programFrom_of_lt hrow]
    rfl

/-- In FINISH only FRAME_END remains (R129, R201). -/
theorem State.Inv.remaining_finish (hinv : s.Inv) (hp : s.phase = .finish) : s.remaining = [.frameEnd] := by
  obtain ⟨-, -, -, hlast, -⟩ := hinv
  obtain ⟨hrow, hcol⟩ := hlast hp
  rw [State.remaining_running (by simp [hp]), State.performed, hp, List.drop_length, hcol, hrow,
    Config.rowFrom_end, Config.programFrom_end]
  rfl

end Remaining

section Tracks

variable {i : Instr} {s t : State} {frame : List Rgb} {win0 : Window} {rest : List InItem} {out0 : List Rgb}
  {em0 : List (Nat × Byte)}

/-- EACH OPERATION OF A FRAME IS THE FIRST OF WHAT REMAINS OF IT (R61, R92). -/
theorem State.FrameTracks.exec_remaining (ht : s.FrameTracks frame win0 rest out0 em0) (hinv : s.Inv)
    (hg : s.cfg.geometryOk = true) (hunb : s.Unbounded) (h : exec i s = .next t) :
    s.remaining = i :: t.remaining := by
  have hdue := exec_next_scheduled h
  cases hp : s.phase with
  | idle => exact absurd hp ht.running
  | finish =>
    obtain ⟨hidle, -⟩ := ht.exec_finish hinv hg hunb hp h
    obtain rfl := Option.some.inj (hdue.symm.trans (State.scheduled_frameEnd.2 hp))
    rw [hinv.remaining_finish hp, State.remaining_idle hidle]
  | scan =>
    obtain ⟨-, hrange, -⟩ := hinv
    obtain ⟨hrow, hcol⟩ := hrange hg
    by_cases hlast : i = .advance → ¬ s.col + 1 < s.cfg.w ∧ ¬ s.row + 1 < s.cfg.h + 3
    · exact (ht.continues hcol hunb hp h hlast).remaining hp hdue
    · obtain ⟨rfl, hmore⟩ := Classical.not_imp.1 hlast
      obtain ⟨-, rfl⟩ := exec_advance_next.1 h
      obtain ⟨hc, hnext⟩ | ⟨hc, hr, hnext⟩ | ⟨hc, hr, -⟩ :=
        State.nextPosition_cases { s.clearLatches with upc := 0, trace := s.trace.tail }
      · rw [hnext]
        exact State.PrecedesPosition.remaining ⟨rfl, .inl ⟨rfl, rfl⟩⟩ hdue hp rfl hrow hc
      · have hend : s.col + 1 = s.cfg.w := Nat.le_antisymm hcol (Nat.le_of_not_lt hc)
        rw [hnext]
        exact State.PrecedesPosition.remaining ⟨rfl, .inr ⟨hend, rfl, rfl⟩⟩ hdue hp rfl hr (Nat.zero_lt_of_lt hcol)
      · exact absurd ⟨hc, hr⟩ hmore

end Tracks

end Machine

end Sys2Proof
end

section
/-! PROOFS. The frame function (R202): O53. -/

namespace Sys2Proof.Machine

/-- A FrameError is logged by a step that pushes its status word, or by one that resumes a discard (R224). -/
theorem exec_faultLog {i : Instr} {s t : State} (h : exec i s = .next t) (hno : s.discarding = false) :
    t.faultLog = s.faultLog ∨ ∃ cause : FrameCause, t.status = s.status ++ [cause.status] := by
  obtain ⟨-, -, -, -, -, -, -, -, -, -, hwriter, -⟩ := onlyTheNamedOperationsWriteEachField i s t h
  by_cases hsame : t.faultLog = s.faultLog
  · exact .inl hsame
  obtain rfl | rfl := hwriter hsame
  · obtain ⟨-, ⟨-, rfl⟩ | ⟨p, rest, -, rfl⟩ | ⟨-, -, -, rfl⟩ | ⟨rest, -, -, rfl⟩⟩ := exec_adaptIn_next.1 h
    iterate 3 exact .inl rfl
    · exact .inr ⟨.short, rfl⟩
  · obtain ⟨-, ⟨hyes, -⟩ | ⟨-, -, rfl⟩ | ⟨-, -, -, rfl⟩ | ⟨rest, -, -, -, rfl⟩ | ⟨p, rest, -, -, -, rfl⟩⟩ :=
      exec_frameEnd_next.1 h
    · exact nomatch hyes.symm.trans hno
    iterate 3 exact .inl rfl
    · exact .inr ⟨.long, State.discardFrame_status ..⟩

/-- At the start of a position the invariant leaves no latch set (R29, R129). -/
theorem State.Inv.latchesUnset_at_start {s : State} (hinv : s.Inv) (hp : s.phase = .scan) (hupc : s.upc = 0) :
    s.LatchesUnset := by
  obtain ⟨-, -, -, -, -, -, hpIn, hgIn, heOut, hpOut⟩ := hinv
  simp only [State.performed_of_upc_zero hp hupc, List.not_mem_nil, and_false, iff_false,
    Option.not_isSome_iff_eq_none] at hpIn hgIn heOut hpOut
  exact ⟨hpIn, hgIn, heOut, hpOut⟩

/-- A run whose first step answers a next state goes on from there. -/
theorem run_succ {s t : State} (h : step s = .next t) (k : Nat) : core.run (k + 1) s = core.run k t := by
  have hcore : core.step s = .next t := h
  simp only [Host.Core.run, hcore]

section Tracks

variable {s t : State} {frame : List Rgb} {win0 : Window} {rest : List InItem} {out0 : List Rgb}
  {em0 : List (Nat × Byte)} (ht : s.FrameTracks frame win0 rest out0 em0) (hinv : s.Inv) (hunb : s.Unbounded)

include ht hinv hunb

/-- No operation of a well-formed frame is logged (R202, R224). -/
theorem State.FrameTracks.step_faultLog (h : step s = .next t) : t.faultLog = s.faultLog := by
  obtain ⟨hrun, hend⟩ := stepKeepsTheFrameInvariant s t frame win0 rest out0 em0 hinv ht hunb h
  obtain ⟨-, i, -, hexec⟩ := step_next h
  refine (exec_faultLog hexec ht.no_discard).resolve_right fun ⟨cause, hpushed⟩ => ?_
  by_cases hp : t.phase = .idle
  · obtain ⟨-, hok, -⟩ := hend hp
    cases cause <;> simp [hok, FrameCause.status] at hpushed
  · simp [(hrun hp).2] at hpushed

/-- A ready core runs the first of what remains of its frame, and is as ready afterwards (R92, R220). -/
theorem State.FrameTracks.step_progress (hready : s.Ready) : ∃ i t, step s = .next t ∧
    s.remaining = i :: t.remaining ∧ t.Inv ∧ t.Ready ∧ t.cfg = s.cfg ∧ t.faultLog = s.faultLog := by
  obtain ⟨hmark, hlog, hwf⟩ := id hready
  obtain ⟨i, t, -, hexec, hstep⟩ := hinv.step_progress hready ht.free_running
  obtain ⟨hcfg, hmark', -⟩ := onlyTheNamedOperationsWriteEachField i s t hexec
  have hlog' := ht.step_faultLog hinv hunb hstep
  exact ⟨i, t, hstep, ht.exec_remaining hinv (Config.geometryOk_of_wf hwf) hunb hexec,
    stepKeepsTheStructuralInvariant s t hinv hstep, ⟨hmark'.trans hmark, hlog' ▸ hlog, hcfg ▸ hwf⟩, hcfg, hlog'⟩

/-- FROM ANY POINT OF A FRAME THE CORE RUNS WHAT REMAINS OF IT, one operation a step, and ends with status OK and every
beat pushed (R92, R202). -/
theorem State.FrameTracks.run_remaining (hready : s.Ready) :
    ∃ t, core.run s.remaining.length s = .next t ∧
      t.output = out0 ++ (List.range s.cfg.npix).map (frameBeat s.cfg (grayImage s.cfg frame) win0) ∧
      t.status = s.status ++ [.ok] ∧ t.input = rest ∧ t.phase = .idle ∧ t.faultLog = s.faultLog := by
  generalize hn : s.remaining.length = n
  induction n generalizing s with
  | zero =>
    obtain ⟨i, t, -, hfirst, -⟩ := ht.step_progress hinv hunb hready
    simp [hfirst] at hn
  | succ n ih =>
    obtain ⟨i, t, hstep, hfirst, hinv', hready', hcfg, hlog⟩ := ht.step_progress hinv hunb hready
    obtain ⟨hrun, hend⟩ := stepKeepsTheFrameInvariant s t frame win0 rest out0 em0 hinv ht hunb hstep
    have hn' : t.remaining.length = n := by simpa [hfirst] using hn
    rw [run_succ hstep]
    by_cases hp : t.phase = .idle
    · obtain ⟨hinput, hstatus, houtput⟩ := hend hp
      obtain rfl : n = 0 := by rw [← hn', State.remaining_idle hp]; rfl
      exact ⟨t, rfl, houtput, hstatus, hinput, hp, hlog⟩
    · obtain ⟨ht', hstatus⟩ := hrun hp
      rw [← hcfg, ← hstatus, ← hlog]
      exact ih ht' hinv' (by rwa [State.Unbounded, hcfg]) hready' hn'

end Tracks

/-- Settles O53: at (0, 0) what remains of the frame is the frame program without its FRAME_START. -/
theorem frameFunction : Obligations.FrameFunction := by
  intro s frame rest hinv hready hunb hp hrow hcol hupc htrace hlen hinput
  obtain ⟨-, -, hwf⟩ := id hready
  obtain ⟨hw, -⟩ := Config.geometryOk_eq_true.1 (Config.geometryOk_of_wf hwf)
  obtain ⟨hlb, -, -, -, -, hdiscard, -⟩ := id hinv
  have hno : s.discarding = false := by simpa [hp] using hdiscard
  have ht := State.frameTracks_at_start hp hrow hcol hupc (hinv.latchesUnset_at_start hp hupc) hlb hno htrace hlen
    hinput
  have hremaining : s.remaining = s.cfg.programFrom 0 := by
    rw [State.remaining_at_start hp hupc (hcol ▸ hw), hrow, hcol, Config.programFrom_of_lt (Nat.succ_pos _)]
  rw [Config.frameProgram_eq, List.length_cons, Nat.add_sub_cancel, ← hremaining]
  exact ht.run_remaining hinv hunb hready

end Sys2Proof.Machine
end

section
/-! PROOFS. Taking a FrameError (R220–R227): what it leaves in the log and where its discard ends; FRAME_LONG: O27; a
core in order never stops: O47. -/

namespace Sys2Proof.Machine

section Discard

variable {s : State} {rest : List InItem} {count : Nat} {f : Fault}

/-- A discard that finds its BOUNDARY ends the frame (R224). -/
theorem State.discardFrame_of_boundary (h : afterBoundary s.input = some rest) :
    s.discardFrame count = ({ s with input := rest }).endInError .long count := by
  rw [State.discardFrame, h]

/-- A discard that finds none drops all there is and waits (R253; log entry 12). -/
theorem State.discardFrame_of_no_boundary (h : afterBoundary s.input = none) :
    s.discardFrame count = { s with input := [], discarding := true } := by
  rw [State.discardFrame, h]

/-- A discard adds its own FrameError to the log, or nothing (R224). -/
theorem State.mem_discardFrame_faultLog (hf : f ∈ (s.discardFrame count).faultLog) :
    f ∈ s.faultLog ∨ f = .frameError .long count := by
  obtain ⟨rest, -, ht⟩ | ⟨-, ht⟩ := s.discardFrame_cases count <;> rw [ht] at hf
  · simpa using hf
  · exact .inl hf

/-- Taking a FrameError adds that error to the log, or nothing (R224). -/
theorem State.mem_takeFrameError_faultLog {cause : FrameCause} (hf : f ∈ (s.takeFrameError cause count).faultLog) :
    f ∈ s.faultLog ∨ f = .frameError cause count := by
  cases cause with
  | short => simpa [State.takeFrameError] using hf
  | long => exact State.mem_discardFrame_faultLog (s := s.statusPush FrameCause.long.status) hf

end Discard

/-- Settles O27: the pixel begins the discard, which ends at the boundary or waits for it. -/
theorem frameLongDiscardsToTheBoundary : Obligations.FrameLongDiscardsToTheBoundary := by
  obtain ⟨-, -, -, -, hpixel⟩ := frameEndReportsTheFrame
  refine ⟨fun s p ps rest hp hno hroom hin => ?_, fun s p ps hp hno hroom hin => ?_,
    fun s ps hp hyes hin => ?_, fun s ps rest hp hyes hin => ?_⟩
  · rw [hpixel s p _ hp hno hroom hin, State.takeFrameError,
      State.discardFrame_of_boundary (afterBoundary_beats_boundary ps rest), State.endInError, State.endFrame, ← hno]
    rfl
  · rw [hpixel s p _ hp hno hroom hin, State.takeFrameError,
      State.discardFrame_of_no_boundary (afterBoundary_beats ps)]
    rfl
  · rw [exec_frameEnd_next.2 ⟨State.scheduled_frameEnd.2 hp, .inl ⟨hyes, rfl⟩⟩,
      State.discardFrame_of_no_boundary (hin ▸ afterBoundary_beats ps), ← hyes]
  · rw [exec_frameEnd_next.2 ⟨State.scheduled_frameEnd.2 hp, .inl ⟨hyes, rfl⟩⟩,
      State.discardFrame_of_boundary (hin ▸ afterBoundary_beats_boundary ps rest)]
    rfl

/-- A micro-operation that has a next state logs nothing but FrameErrors, which stop nothing (R220, R227). -/
theorem exec_mem_faultLog {i : Instr} {s t : State} (h : exec i s = .next t) {f : Fault} (hf : f ∈ t.faultLog) :
    f ∈ s.faultLog ∨ ∃ cause count, f = .frameError cause count := by
  obtain ⟨-, -, -, -, -, -, -, -, -, -, hwriter, -⟩ := onlyTheNamedOperationsWriteEachField i s t h
  by_cases hsame : t.faultLog = s.faultLog
  · exact .inl (hsame ▸ hf)
  obtain rfl | rfl := hwriter hsame
  · obtain ⟨-, ⟨-, rfl⟩ | ⟨p, rest, -, rfl⟩ | ⟨-, -, -, rfl⟩ | ⟨rest, -, -, rfl⟩⟩ := exec_adaptIn_next.1 h
    iterate 3 exact .inl hf
    · exact (State.mem_takeFrameError_faultLog hf).imp_right fun hnew => ⟨_, _, hnew⟩
  · obtain ⟨-, ⟨-, rfl⟩ | ⟨-, -, rfl⟩ | ⟨-, -, -, rfl⟩ | ⟨rest, -, -, -, rfl⟩ | ⟨p, rest, -, -, -, rfl⟩⟩ :=
      exec_frameEnd_next.1 h
    · exact (State.mem_discardFrame_faultLog hf).imp_right fun hnew => ⟨_, _, hnew⟩
    iterate 3 exact .inl hf
    · exact (State.mem_takeFrameError_faultLog hf).imp_right fun hnew => ⟨_, _, hnew⟩

/-- A ready core is as ready after any micro-operation that has a next state (R220, R227, R261). -/
theorem exec_ready {i : Instr} {s t : State} (hready : s.Ready) (h : exec i s = .next t) : t.Ready := by
  obtain ⟨hmark, hlog, hwf⟩ := hready
  obtain ⟨hcfg, hmark', -⟩ := onlyTheNamedOperationsWriteEachField i s t h
  refine ⟨hmark'.trans hmark, fun f hf => ?_, hcfg ▸ hwf⟩
  obtain hmem | ⟨cause, count, rfl⟩ := exec_mem_faultLog h hf
  · exact hlog f hmem
  · rfl

/-- Settles O47: the operation that is due has a next state, and no operation puts a word in an empty trace. -/
theorem legalSequenceNeverStops : Obligations.LegalSequenceNeverStops := by
  intro s hinv hready htrace
  obtain ⟨i, t, -, hexec, hstep⟩ := hinv.step_progress hready htrace
  obtain ⟨-, -, htail, -⟩ := onlyTheNamedOperationsWriteEachField i s t hexec
  exact ⟨t, hstep, exec_ready hready hexec, by simpa [htrace] using htail⟩

end Sys2Proof.Machine
end

section
/-! PROOFS. The one status word of a frame (R221, R224, R226): O38. -/

namespace Sys2Proof.Machine

/-- The frame goes on, or there is none, or its word is already out: no word is pushed, and where no discard is
waiting none begins and no frame ends (R221). -/
def State.KeepsFrame (s t : State) : Prop :=
  t.status = s.status ∧ (s.discarding = false → t.discarding = false ∧ (t.phase = .idle → s.phase = .idle))

/-- A frame in progress gets its word: it ends, or it is a long one and its discard begins to wait (R221, R224). -/
def State.ReportsFrame (s t : State) : Prop :=
  s.discarding = false ∧ s.phase ≠ .idle ∧ ∃ word, t.status = s.status ++ [word] ∧
    (t.phase = .idle ∧ t.discarding = false ∨ t.phase = .finish ∧ t.discarding = true ∧ word = .frameLong)

theorem State.KeepsFrame.refl (s : State) : s.KeepsFrame s :=
  ⟨rfl, fun hno => ⟨hno, id⟩⟩

/-- A discard ends in IDLE, or waits where it is (R224, R253). -/
theorem State.discardFrame_phase_discarding (s : State) (count : Nat) :
    (s.discardFrame count).phase = .idle ∧ (s.discardFrame count).discarding = false ∨
      (s.discardFrame count).phase = s.phase ∧ (s.discardFrame count).discarding = true := by
  obtain ⟨rest, -, ht⟩ | ⟨-, ht⟩ := s.discardFrame_cases count <;> rw [ht]
  · exact .inl ⟨rfl, rfl⟩
  · exact .inr ⟨rfl, rfl⟩

section Reports

variable {i : Instr} {s t : State}

/-- ADAPT_IN reports a frame cut short, and no other (R181, R222). -/
theorem exec_adaptIn_reports (hno : s.discarding = false) (h : exec .adaptIn s = .next t) :
    s.KeepsFrame t ∨ s.ReportsFrame t := by
  obtain ⟨hdue, hcases⟩ := exec_adaptIn_next.1 h
  have hp : s.phase = .scan := ((State.scheduled_other (by decide) (by decide)).1 hdue).1
  obtain ⟨-, rfl⟩ | ⟨p, rest, -, rfl⟩ | ⟨-, -, -, rfl⟩ | ⟨rest, -, -, rfl⟩ := hcases
  · exact .inl (.refl _)
  · exact .inl (.refl s)
  · exact .inl (.refl _)
  · exact .inr ⟨hno, by simp [hp], .frameShort, rfl, .inl ⟨rfl, rfl⟩⟩

/-- FRAME_END reports its frame with the boundary, or with the pixel that begins a discard; a resumed discard reports
nothing (R201, R223, R224). -/
theorem exec_frameEnd_reports (h : exec .frameEnd s = .next t) : s.KeepsFrame t ∨ s.ReportsFrame t := by
  obtain ⟨hdue, hcases⟩ := exec_frameEnd_next.1 h
  have hp : s.phase = .finish := State.scheduled_frameEnd.1 hdue
  obtain ⟨hyes, rfl⟩ | ⟨-, -, rfl⟩ | ⟨-, -, -, rfl⟩ | ⟨rest, hno, -, -, rfl⟩ | ⟨p, rest, hno, -, -, rfl⟩ := hcases
  · exact .inl ⟨State.discardFrame_status .., fun hno => nomatch hyes.symm.trans hno⟩
  · exact .inl (.refl _)
  · exact .inl (.refl _)
  · exact .inr ⟨hno, by simp [hp], .ok, rfl, .inl ⟨rfl, rfl⟩⟩
  · refine .inr ⟨hno, by simp [hp], .frameLong, State.discardFrame_status .., ?_⟩
    exact (State.discardFrame_phase_discarding _ _).imp_right fun ⟨hwait, hyes⟩ => ⟨hwait.trans hp, hyes, rfl⟩

/-- Every other operation leaves the frame unreported, and does not end it (R203, R221). -/
theorem exec_other_keepsFrame (hinv : s.Inv) (hg : s.cfg.geometryOk = true) (hin : i ≠ .adaptIn)
    (hend : i ≠ .frameEnd) (h : exec i s = .next t) : s.KeepsFrame t := by
  obtain ⟨-, -, -, -, -, -, -, -, -, hstatus, -, -, -, -, -, -, -, -, -, -, -, hbegin, -⟩ :=
    onlyTheNamedOperationsWriteEachField i s t h
  obtain ⟨-, -, -, hscan, -, hfinish⟩ := phaseTransitionsAreTheListedOnes i s t hinv hg h
  refine ⟨?_, fun hno => ⟨?_, fun hidle => ?_⟩⟩
  · by_contra hpushed
    exact (hstatus hpushed).elim hin hend
  · exact Bool.eq_false_iff.2 fun hyes => hend (hbegin hyes hno)
  · cases hp : s.phase with
    | idle => rfl
    | scan => exact absurd (hscan hp hidle).1 hin
    | finish => exact absurd (hfinish hp hidle).1 hend

/-- EVERY OPERATION KEEPS THE FRAME UNREPORTED OR REPORTS IT (R221). -/
theorem exec_keeps_or_reports (hinv : s.Inv) (hg : s.cfg.geometryOk = true) (h : exec i s = .next t) :
    s.KeepsFrame t ∨ s.ReportsFrame t := by
  by_cases hin : i = .adaptIn
  · subst hin
    obtain ⟨-, -, -, -, -, hdiscard, -⟩ := hinv
    have hp : s.phase = .scan := ((State.scheduled_other (by decide) (by decide)).1 (exec_next_scheduled h)).1
    exact exec_adaptIn_reports (by simpa [hp] using hdiscard) h
  by_cases hend : i = .frameEnd
  · subst hend
    exact exec_frameEnd_reports h
  · exact .inl (exec_other_keepsFrame hinv hg hin hend h)

end Reports

/-- Settles O38: a step that keeps its frame unreported pushes no word, and one that reports it pushes one. -/
theorem oneStatusWordEndsAFrame : Obligations.OneStatusWordEndsAFrame := by
  intro s t hinv hstep
  obtain ⟨hstanding, i, -, h⟩ := step_next hstep
  obtain ⟨-, -, hwf⟩ := State.standing_none.1 hstanding
  obtain ⟨hstatus, hkeeps⟩ | ⟨hno, hp, word, hpush, hends⟩ :=
    exec_keeps_or_reports hinv (Config.geometryOk_of_wf hwf) h
  · refine ⟨.inl hstatus, fun hp hidle hno => absurd ((hkeeps hno).2 hidle) hp, fun hno hyes => ?_, fun _ => hstatus⟩
    exact nomatch (hkeeps hno).1.symm.trans hyes
  · have hrunning : s.phase = .finish ∨ s.phase = .scan := by
      cases hphase : s.phase with
      | idle => exact absurd hphase hp
      | scan => exact .inr rfl
      | finish => exact .inl rfl
    refine ⟨.inr ⟨hno, hrunning, hends.imp And.left fun ⟨hwait, hyes, _⟩ => ⟨hwait, hyes⟩, word, hpush⟩,
      fun _ _ _ => by simp [hpush], fun _ hyes => ?_, fun hyes => nomatch hyes.symm.trans hno⟩
    obtain ⟨-, hclear⟩ | ⟨-, -, rfl⟩ := hends
    · exact nomatch hyes.symm.trans hclear
    · exact hpush

end Sys2Proof.Machine
end

section
/-! PROOFS. Which instructions fault, and on which latch (R29, R220, R231): O40. -/

namespace Sys2Proof.Machine

/-- Where the use of a latch faults nothing, the fault is the latch's own: it is unset (R231). -/
theorem readLatch_fault_unset {α : Type} {latch : Option α} {i : Instr} {s : State} {use : α → Result} {f : Fault}
    (huse : ∀ v, use v ≠ .fault f) (h : readLatch latch i s use = .fault f) :
    f = .latchUnset i s.row s.col ∧ latch = none := by
  obtain ⟨hunset, hf⟩ | ⟨v, -, hv⟩ := readLatch_fault.1 h
  · exact ⟨hf, hunset⟩
  · exact absurd hv (huse v)

/-- Settles O40, operation by operation: one that reads no latch ends in no fault, and one that does reads it once. -/
theorem onlyUnsetLatchesFault : Obligations.OnlyUnsetLatchesFault := by
  intro i s f h
  cases i with
  | frameStart | edge | advance => exact nomatch (issue_fault.1 h).2
  | topFixup | rowShift => exact nomatch (reachColumns_fault.1 (issue_fault.1 h).2).2
  | winInsert =>
    obtain ⟨-, hbody⟩ := issue_fault.1 h
    split at hbody <;> exact nomatch hbody
  | adaptIn =>
    obtain ⟨-, hbody⟩ := issue_fault.1 h
    split at hbody
    · exact nomatch hbody
    · exact nomatch hbody
    · exact absurd hbody raiseFrameError_not_fault
  | frameEnd =>
    obtain ⟨-, hbody⟩ := issue_fault.1 h
    split at hbody
    · exact nomatch hbody
    · exact nomatch hbody
    · split at hbody <;> exact nomatch hbody
    · exact absurd hbody raiseFrameError_not_fault
  | gray =>
    obtain ⟨hf, hunset⟩ := readLatch_fault_unset nofun (issue_fault.1 h).2
    exact ⟨hf, .inl ⟨rfl, hunset⟩⟩
  | ingestM | ingestL | ingestR | ingestLR =>
    obtain ⟨hf, hunset⟩ := readLatch_fault_unset nofun (reachColumns_fault.1 (issue_fault.1 h).2).2
    exact ⟨hf, .inr (.inl ⟨by decide, hunset⟩)⟩
  | emit | expand =>
    obtain ⟨hf, hunset⟩ := readLatch_fault_unset nofun (issue_fault.1 h).2
    exact ⟨hf, .inr (.inr (.inl ⟨by decide, hunset⟩))⟩
  | adaptOut =>
    obtain ⟨-, hbody⟩ := issue_fault.1 h
    split at hbody
    · exact nomatch hbody
    · obtain ⟨hf, hunset⟩ := readLatch_fault_unset nofun hbody
      exact ⟨hf, .inr (.inr (.inr ⟨rfl, hunset⟩))⟩

end Sys2Proof.Machine
end

section
/-! PROOFS. The holds (R253): O36. -/

namespace Sys2Proof.Machine

/-- A FrameError pushes the status word of its cause, whether its frame ends or a discard begins to wait (R224). -/
theorem State.takeFrameError_status (s : State) (cause : FrameCause) (count : Nat) :
    (s.takeFrameError cause count).status = s.status ++ [cause.status] := by
  cases cause with
  | short => rfl
  | long => exact State.discardFrame_status ..

section Holds

variable {i : Instr} {s u : State}

/-- An operation that retires has moved on from the index it ran at: it has not held (R36). -/
theorem State.upc_ne_of_eq_retire (hheld : s = u.retire) : u.upc ≠ s.upc := by
  have hupc : s.upc = u.upc + 1 := congrArg State.upc hheld
  omega

/-- A FrameError is no hold: it pushes a status word (R224). -/
theorem State.status_ne_of_eq_takeFrameError {cause : FrameCause} {count : Nat}
    (hheld : s = u.takeFrameError cause count) : u.status ≠ s.status := by
  have hstatus := congrArg State.status hheld
  rw [State.takeFrameError_status] at hstatus
  simp [hstatus]

/-- The next position, its sequence started afresh, is not the position where ADVANCE was due (R129). -/
theorem exec_advance_ne_hold : exec .advance s ≠ .next s := fun h => by
  obtain ⟨hdue, hheld⟩ := exec_advance_next.1 h
  have hp : s.phase = .scan := ((State.scheduled_other (by decide) (by decide)).1 hdue).1
  obtain ⟨-, hnext⟩ | ⟨-, -, hnext⟩ | ⟨-, -, hnext⟩ :=
    State.nextPosition_cases { s.clearLatches with upc := 0, trace := s.trace.tail }
  all_goals rw [hnext] at hheld
  · exact Nat.succ_ne_self _ (congrArg State.col hheld).symm
  · exact Nat.succ_ne_self _ (congrArg State.row hheld).symm
  · exact nomatch hp.symm.trans (congrArg State.phase hheld)

/-- Every operation but ADAPT_IN, ADAPT_OUT and FRAME_END moves on when it runs (R253). -/
theorem exec_ne_hold (hi : i ∉ [.adaptIn, .adaptOut, .frameEnd]) : exec i s ≠ .next s := fun h => by
  cases i with
  | adaptIn | adaptOut | frameEnd => simp at hi
  | frameStart =>
    obtain ⟨hdue, hheld⟩ := exec_frameStart_next.1 h
    exact nomatch (State.scheduled_frameStart.1 hdue).symm.trans (congrArg State.phase hheld)
  | gray =>
    obtain ⟨-, p, -, hheld⟩ := exec_gray_next.1 h
    exact State.upc_ne_of_eq_retire hheld rfl
  | ingestM | ingestL | ingestR | ingestLR =>
    obtain ⟨-, -, g, -, hheld⟩ := ingest_next.1 h
    exact State.upc_ne_of_eq_retire hheld rfl
  | winInsert =>
    obtain ⟨-, column, -, hheld⟩ := exec_winInsert_next.1 h
    exact State.upc_ne_of_eq_retire hheld rfl
  | edge =>
    obtain ⟨-, hheld⟩ := exec_edge_next.1 h
    exact State.upc_ne_of_eq_retire hheld rfl
  | emit =>
    obtain ⟨-, e, -, hheld⟩ := exec_emit_next.1 h
    exact State.upc_ne_of_eq_retire hheld rfl
  | expand =>
    obtain ⟨-, e, -, hheld⟩ := exec_expand_next.1 h
    exact State.upc_ne_of_eq_retire hheld rfl
  | topFixup =>
    obtain ⟨-, -, hheld⟩ := exec_topFixup_next.1 h
    exact State.upc_ne_of_eq_retire hheld rfl
  | rowShift =>
    obtain ⟨-, -, hheld⟩ := exec_rowShift_next.1 h
    exact State.upc_ne_of_eq_retire hheld rfl
  | advance => exact exec_advance_ne_hold h

/-- ADAPT_IN holds for an item, and with a boundary for room in the status queue (R181, R253; log entry 13). -/
theorem exec_adaptIn_hold (hdue : s.scheduled = some .adaptIn) : exec .adaptIn s = .next s ↔
    s.input = [] ∨ s.input.head? = some .boundary ∧ s.statusFull = true := by
  refine exec_adaptIn_next.trans ⟨?_, ?_⟩
  · rintro ⟨-, ⟨hempty, -⟩ | ⟨p, rest, -, hheld⟩ | ⟨rest, hin, hfull, -⟩ | ⟨rest, -, -, hheld⟩⟩
    · exact .inl hempty
    · exact (State.upc_ne_of_eq_retire hheld rfl).elim
    · exact .inr ⟨hin ▸ rfl, hfull⟩
    · exact (State.status_ne_of_eq_takeFrameError hheld rfl).elim
  · rintro (hempty | ⟨hfront, hfull⟩)
    · exact ⟨hdue, .inl ⟨hempty, rfl⟩⟩
    · obtain ⟨rest, hin⟩ := List.head?_eq_some_iff.1 hfront
      exact ⟨hdue, .inr (.inr (.inl ⟨rest, hin, hfull, rfl⟩))⟩

/-- ADAPT_OUT holds for room in the output queue (R182, R253). -/
theorem exec_adaptOut_hold (hdue : s.scheduled = some .adaptOut) :
    exec .adaptOut s = .next s ↔ s.outputFull = true := by
  refine exec_adaptOut_next.trans ⟨?_, fun hfull => ⟨hdue, .inl ⟨hfull, rfl⟩⟩⟩
  rintro ⟨-, ⟨hfull, -⟩ | ⟨-, p, -, hheld⟩⟩
  · exact hfull
  · exact (State.upc_ne_of_eq_retire hheld rfl).elim

/-- A waiting discard stands still in FINISH exactly while there is nothing to drop (R224, R253; log entry 12). -/
theorem State.discardFrame_hold (hp : s.phase = .finish) (hyes : s.discarding = true) (count : Nat) :
    s = s.discardFrame count ↔ s.input = [] := by
  refine ⟨fun hheld => ?_, fun hempty => ?_⟩
  · obtain ⟨rest, -, ht⟩ | ⟨-, ht⟩ := s.discardFrame_cases count <;> rw [ht] at hheld
    · exact nomatch hp.symm.trans (congrArg State.phase hheld)
    · exact congrArg State.input hheld
  · rw [State.discardFrame_of_no_boundary (hempty ▸ rfl), ← hempty, ← hyes]

/-- FRAME_END holds for an item, a waiting discard too, and with one for room in the status queue unless it discards
(R201, R253; log entry 13). -/
theorem exec_frameEnd_hold (hdue : s.scheduled = some .frameEnd) : exec .frameEnd s = .next s ↔
    s.input = [] ∨ s.discarding = false ∧ s.statusFull = true := by
  have hp : s.phase = .finish := State.scheduled_frameEnd.1 hdue
  refine exec_frameEnd_next.trans ⟨?_, fun hlisted => ⟨hdue, ?_⟩⟩
  · rintro ⟨-, ⟨hyes, hheld⟩ | ⟨-, hempty, -⟩ | ⟨hno, -, hfull, -⟩ | ⟨rest, -, -, -, hheld⟩ |
      ⟨p, rest, -, -, -, hheld⟩⟩
    · exact .inl ((State.discardFrame_hold hp hyes _).1 hheld)
    · exact .inl hempty
    · exact .inr ⟨hno, hfull⟩
    · exact nomatch hp.symm.trans (congrArg State.phase hheld)
    · exact (State.status_ne_of_eq_takeFrameError hheld rfl).elim
  · by_cases hempty : s.input = []
    · cases hd : s.discarding with
      | true => exact .inl ⟨rfl, (State.discardFrame_hold hp hd _).2 hempty⟩
      | false => exact .inr (.inl ⟨rfl, hempty, rfl⟩)
    · obtain ⟨hno, hfull⟩ := hlisted.resolve_left hempty
      exact .inr (.inr (.inl ⟨hno, hempty, hfull, rfl⟩))

end Holds

/-- Settles O36: three operations hold, each on its own conditions, and every other one moves on. -/
theorem onlyTheListedOperationsHold : Obligations.OnlyTheListedOperationsHold := by
  intro i s hdue
  by_cases hi : i ∈ [.adaptIn, .adaptOut, .frameEnd]
  · simp only [List.mem_cons, List.not_mem_nil, or_false] at hi
    obtain rfl | rfl | rfl := hi
    · simpa using exec_adaptIn_hold hdue
    · simpa using exec_adaptOut_hold hdue
    · simpa using exec_frameEnd_hold hdue
  · have hnone := exec_ne_hold (s := s) hi
    simp only [List.mem_cons, List.not_mem_nil, or_false, not_or] at hi
    simp [hnone, hi]

end Sys2Proof.Machine
end

section
/-! PROOFS. What a reset leaves (R34, R250): O41; the host's moves and the two invariants (R252): O46. -/

namespace Sys2Proof.Machine

/-- Settles O41: a reset state is `State.afterReset`'s literal, whose line buffer is a draw. -/
theorem resetLeavesAnIdleCore : Obligations.ResetLeavesAnIdleCore :=
  ⟨fun c n => ⟨rfl, rfl, rfl, rfl, rfl, rfl, rfl, rfl, rfl, rfl, rfl, rfl, rfl, c.length_drawLineBuffer n⟩,
    ⟨_, rfl, rfl, rfl, rfl, rfl, rfl⟩, fun _ => ⟨rfl, State.scheduled_frameStart.2 rfl⟩⟩

/-- A move of the host keeps the structural invariant: the queues are no part of it, and a reset begins it anew. -/
theorem State.hostMove_inv {s : State} (hs : s.Inv) (m : HostMove) : (s.hostMove m).Inv := by
  cases m with
  | reset => exact State.afterReset_inv ..
  | deliver item => exact hs
  | takeOutput => exact hs
  | takeStatus => exact hs

/-- A move of the host keeps the binary invariant: it takes beats from the output queue and adds none (R84). -/
theorem State.hostMove_binary {s : State} (hs : s.Binary) (m : HostMove) : (s.hostMove m).Binary := by
  cases m with
  | reset => exact State.afterReset_binary ..
  | deliver item => exact hs
  | takeOutput =>
    obtain ⟨houtput, hrest⟩ := hs
    exact ⟨fun p hp => houtput p (List.mem_of_mem_tail hp), hrest⟩
  | takeStatus => exact hs

/-- Settles O46. -/
theorem hostMovesKeepTheInvariants : Obligations.HostMovesKeepTheInvariants :=
  fun _ m => ⟨fun hs => State.hostMove_inv hs m, fun hs => State.hostMove_binary hs m⟩

end Sys2Proof.Machine
end
